-- ==== Sys2Proof/Word.lean ====
section
/-! DEFINITION. The word type and the names of the four output lines (spec/00_scope.md R8, R10, R11; spec/10_state.md R15). -/

namespace Sys2Proof

/-- A stored byte or a wire byte: 8 bits, unsigned (R10, R33). -/
abbrev Byte := BitVec 8

/-- The four output wires of the block (R15). -/
inductive Line where
  | load
  | data
  | clock
  | reset
  deriving DecidableEq, Repr

/-- A line event `(L, v)`: one write of a line register (R10, R11). `true` is level 1, "high". -/
structure LineEvent where
  line : Line
  level : Bool
  deriving DecidableEq, Repr

/-- The levels of the four one-bit line registers (R15). -/
structure Lines where
  load : Bool
  data : Bool
  clock : Bool
  reset : Bool
  deriving DecidableEq, Repr

end Sys2Proof
end

