-- ==== Sys2Proof/Config.lean ====
section
/-! DEFINITION. The parameters of spec/00_scope.md R8: the numbers the spec fixes, and the two it leaves open
(the contents of the glyph table, R7 and 92 D21; every duration, R158 and 92 D20). -/

namespace Sys2Proof

namespace Config

/-- `N_LINES`: LOAD, DATA, CLOCK and RESET (R8, R15). -/
abbrev nLines : Nat := 4

/-- `FRAME_BITS`: bits of one frame (R8, R84). -/
abbrev frameBits : Nat := 8

/-- `N_DIGITS`: the display has 8 cells, positions 0 to 7 (R8, R98). -/
abbrev nDigits : Nat := 8

/-- `N_ROWS`: rows per glyph (R8, R72). -/
abbrev nRows : Nat := 7

/-- `N_COLS`: significant bits per row (R8, R72). -/
abbrev nCols : Nat := 5

/-- `CH_W`: width of a character code input (R8, R62; 92 D3). -/
abbrev chW : Nat := 8

/-- `POS_W`: width of a position input and of the position counter (R8, R63; 92 D4). -/
abbrev posW : Nat := 8

/-- `LEVEL_W`: width of a brightness level input (R8, R64; 92 D5). -/
abbrev levelW : Nat := 8

/-- `ROM_DEPTH`: the bytes of the glyph ROM (R8, R33; 90 C1, 92 D6). -/
abbrev romDepth : Nat := 665

/-- `ROM_AW`: width of a ROM address (R8, R34; 92 D6). -/
abbrev romAw : Nat := 10

/-- The number of codes 0x20..0x7E, each with one bitmap (R33, R73). -/
abbrev nGlyphs : Nat := 95

/-- The number of codes LOOKUP passes, 0x20..0x7B (R62). -/
abbrev nReachable : Nat := 92

end Config

/-- A character code: `CH_W` bits, unsigned (R62). -/
abbrev CharCode := BitVec Config.chW

/-- A position, or the position counter: `POS_W` bits, unsigned (R63). -/
abbrev Position := BitVec Config.posW

/-- A brightness level: `LEVEL_W` bits, unsigned (R64). -/
abbrev Level := BitVec Config.levelW

end Sys2Proof

namespace Sys2Proof.Config

open Sys2Proof

/-- `CH_LO`: the lowest code with a table entry, and the space character (R8, R74). -/
abbrev chLo : CharCode := 0x20

/-- `CH_HI_LOOKUP`: the highest code LOOKUP does not substitute (R8, R74; 90 C2). -/
abbrev chHiLookup : CharCode := 0x7B

/-- `CH_HI_TABLE`: the highest code with a table entry (R8, R73). -/
abbrev chHiTable : CharCode := 0x7E

/-- The `N_LINES` lines in the order R8 and R15 name them. -/
def lineNames : Vector Line nLines := #v[.load, .data, .clock, .reset]

/-- The codes that have a bitmap in the table (R73). -/
def inTable (c : CharCode) : Bool := decide (chLo ≤ c) && decide (c ≤ chHiTable)

/-- The numbers of R8 agree: 95 bitmaps from `CH_LO` to `CH_HI_TABLE`, 92 of them passed by LOOKUP, `N_ROWS` bytes each in
`ROM_DEPTH`, which `ROM_AW` bits address and `ROM_AW - 1` do not (R33, R34, R62). -/
theorem parameters_agree : nGlyphs = chHiTable.toNat - chLo.toNat + 1 ∧ nReachable = chHiLookup.toNat - chLo.toNat + 1 ∧
    romDepth = nGlyphs * nRows ∧ romDepth ≤ 2 ^ romAw ∧ 2 ^ (romAw - 1) < romDepth := by decide

theorem lineNames_complete (l : Line) : l ∈ lineNames.toList := by cases l <;> decide

/-- `LINE_RESET`: LOAD 1, DATA 0, CLOCK 0, RESET 1 (R16; the spec's decision D7). -/
def lineReset : Lines := ⟨true, false, false, true⟩

/-- The five significant bits of the seven rows of 'A' (R77: `0x20, 0x50, 0x88, 0xF8, 0x88, 0x88, 0x88`, each
stored byte without the padding of R78). -/
def letterARow (r : Fin nRows) : BitVec nCols :=
  match r with
  | 0 => 0b00100
  | 1 => 0b01010
  | 2 => 0b10001
  | 3 => 0b11111
  | 4 => 0b10001
  | 5 => 0b10001
  | 6 => 0b10001

/-- The table of 95 bitmaps made from `rows`, with the two glyphs the spec gives put in their places: the space
(code 0x20, R80, all blank) and 'A' (code 0x41, R77). -/
def tableRow (rows : Fin nGlyphs → Fin nRows → BitVec nCols) (k : Fin nGlyphs) (r : Fin nRows) : BitVec nCols :=
  if k.val = 0 then 0 else if k.val = 33 then letterARow r else rows k r

/-- What the spec says of the open part of `GLYPH_ROM`: some rows for every glyph, such that the 92 bitmaps LOOKUP
can return are pairwise distinct (R79). R77, R78 and R80 hold of `tableRow` and `romByte` whatever `rows` is. -/
structure FreeGlyphs where
  rows : Fin nGlyphs → Fin nRows → BitVec nCols
  distinct : ∀ k k' : Fin nReachable, (∀ r, tableRow rows (k.castLE (by decide)) r = tableRow rows (k'.castLE (by decide)) r) → k = k'

/-- Shows only that a table meeting R77 to R80 exists (row 0 and row 1 spell the code); nothing reads its values. -/
def someRows (k : Fin nGlyphs) (r : Fin nRows) : BitVec nCols :=
  if r.val = 0 then BitVec.ofNat nCols k.val else if r.val = 1 then BitVec.ofNat nCols (k.val / 32 + 1) else 0

/-- Rows 0, 1 and 3 of a bitmap of `someRows`, as one number, tell its code. -/
theorem someRows_spells (k : Fin nReachable) :
    (tableRow someRows (k.castLE (by decide)) 0).toNat + 32 * (tableRow someRows (k.castLE (by decide)) 1).toNat
      + 1024 * (tableRow someRows (k.castLE (by decide)) 3).toNat
      = if k.val = 0 then 0 else if k.val = 33 then 32068 else k.val + 32 := by
  have hk : k.val < 92 := k.isLt
  by_cases h0 : k.val = 0
  · simp [tableRow, h0]
  · by_cases h33 : k.val = 33
    · simp [tableRow, h33, letterARow, nCols]
    · simp [tableRow, someRows, h0, h33, nCols, nRows]
      omega

theorem someRows_distinct (k k' : Fin nReachable)
    (h : ∀ r, tableRow someRows (k.castLE (by decide)) r = tableRow someRows (k'.castLE (by decide)) r) : k = k' := by
  have hs := someRows_spells k
  rw [h 0, h 1, h 3, someRows_spells k'] at hs
  have hk : k.val < 92 := k.isLt
  have hk' : k'.val < 92 := k'.isLt
  apply Fin.ext
  split at hs <;> split at hs <;> first | omega | (split at hs <;> first | omega | (split at hs <;> omega))

/-- FREE VALUE (92 D21, `OPEN`; log entry 2): the glyph rows the spec does not give. No body: no proof can see them. -/
opaque freeGlyphs [Inhabited FreeGlyphs] : FreeGlyphs

/-- The one table of this machine. -/
def glyphs : FreeGlyphs := @freeGlyphs ⟨⟨someRows, someRows_distinct⟩⟩

/-- The five dots of row `r` of the glyph of code `0x20 + k` (R72, R73). -/
def glyphRow (k : Fin nGlyphs) (r : Fin nRows) : BitVec nCols := tableRow glyphs.rows k r

/-- `ROM[i]`, the glyph ROM of R33: code `0x20 + i / 7`, row `i mod 7`; the dots in bits 7..3, bits 2..0 zero (R72,
R78). The ROM has no index above 664 (R34). -/
def romByte (i : Fin romDepth) : Byte :=
  (glyphRow ⟨i.val / nRows, Nat.div_lt_of_lt_mul i.isLt⟩ ⟨i.val % nRows, Nat.mod_lt _ (by decide)⟩).zeroExtend 8 <<< 3

/-- The nine durations R158 names. -/
inductive Duration where
  | tDataSetup
  | tDataHold
  | tClkHigh
  | tClkLow
  | tLoadSetup
  | tLoadHold
  | tLoadHigh
  | tResetLow
  | tResetRecovery
  deriving DecidableEq, Repr

/-- OPEN (R158; 92 D20): every duration, in any unit. No rule and no definition of the model depends on one. -/
opaque duration : Duration → Nat

end Sys2Proof.Config
end

