-- ==== Sys2Proof/Syntax.lean ====
section
/-! DEFINITION. The instructions: one constructor for every row of spec/opcode_table.json; and the coded forms in which
they reach the block, the levels on the pins of one of its ports (spec/30_encoding.md R58; R71, R83, R95). -/

namespace Sys2Proof

/-- The operations of R9, the three wire byte formats of R52 and the three reserved command codes of R68. -/
inductive Instr where
  /-- `ADDR_FRAME` (R53): the frame of the byte `1010 0DDD`. -/
  | addrFrame (digit : BitVec 3)
  /-- `ROW_FRAME` (R54): the frame of the byte `000P PPPP`. -/
  | rowFrame (dots : BitVec 5)
  /-- `CTRL_FRAME` (R55): the frame of the byte `1110 0VVV`. -/
  | ctrlFrame (level : BitVec 3)
  /-- `INIT` (R103). -/
  | init
  /-- `RENDER_CHAR ch, pos` (R105). -/
  | renderChar (ch : CharCode) (pos : Position)
  /-- `RENDER_TEXT text, start` (R108). -/
  | renderText (text : List CharCode) (start : Position)
  /-- `SET_BRIGHTNESS level` (R111). -/
  | setBrightness (level : Level)
  /-- `CLEAR` (R113). -/
  | clear
  /-- `RESERVED_101`: the reserved command code 101 (R68). -/
  | reserved101
  /-- `RESERVED_110`: the reserved command code 110 (R68). -/
  | reserved110
  /-- `RESERVED_111`: the reserved command code 111 (R68). -/
  | reserved111
  /-- `LOOKUP ch` (R75). -/
  | lookup (ch : CharCode)
  /-- `SEND byte` (R84). -/
  | send (byte : Byte)
  /-- `ADDR_ENCODE pos` (R96). -/
  | addrEncode (pos : Position)
  deriving DecidableEq, Repr

/-- The pins of the command port that carry a command (R58): the 3-bit code and every operand port. -/
structure CmdPins where
  op : BitVec 3
  ch : CharCode
  pos : Position
  level : Level
  text : List CharCode
  deriving DecidableEq, Repr

/-- A coded operation: what stands on the pins of a port. The host drives `command` only (R58, R60); the three ports of
the sub-blocks are driven inside the block (R71, R83, R95). -/
inductive PortInput where
  /-- The command port with `cmd_valid = 1` (R58). -/
  | command (pins : CmdPins)
  /-- The transmitter's `start` with its input `byte` (R83). -/
  | txStart (byte : Byte)
  /-- The input `ch` of `glyph_rom`, rows 0 to 6 in turn (R71, R75). -/
  | romPort (ch : CharCode)
  /-- The input `pos` of `digit_address_encoder` (R95). -/
  | addrPort (pos : Position)
  deriving DecidableEq, Repr

end Sys2Proof
end

