-- ==== Sys2Proof/WellFormed.lean ====
section
/-! DEFINITION. Well-formed instructions. The operand widths are in the types of Syntax.lean, so one check is left: a
byte of one of the three wire formats (spec/30_encoding.md R52 to R55) is written as that format's frame, and `SEND` is
written for the other bytes only, so that an instruction has one spelling. -/

namespace Sys2Proof

/-- The `ADDR` format `1010 0DDD` (R53): match 0xA0 under mask 0xF8. -/
def isAddrByte (b : Byte) : Bool := b &&& 0xF8#8 == 0xA0#8

/-- The `ROW` format `000P PPPP` (R54): match 0x00 under mask 0xE0. -/
def isRowByte (b : Byte) : Bool := b &&& 0xE0#8 == 0x00#8

/-- The `CTRL` format `1110 0VVV` (R55): match 0xE0 under mask 0xF8. -/
def isCtrlByte (b : Byte) : Bool := b &&& 0xF8#8 == 0xE0#8

/-- The 48 byte values of R56: the three formats together. -/
def hasWireFormat (b : Byte) : Bool := isAddrByte b || isRowByte b || isCtrlByte b

/-- The one spelling of an instruction: `SEND` of a formatted byte is written as its frame. -/
def Instr.wellFormed : Instr → Bool
  | .addrFrame _ => true
  | .rowFrame _ => true
  | .ctrlFrame _ => true
  | .init => true
  | .renderChar _ _ => true
  | .renderText _ _ => true
  | .setBrightness _ => true
  | .clear => true
  | .reserved101 => true
  | .reserved110 => true
  | .reserved111 => true
  | .lookup _ => true
  | .send b => !hasWireFormat b
  | .addrEncode _ => true

end Sys2Proof
end

