-- ==== Sys2Proof/Decode.lean ====
section
/-! DEFINITION. From the pins of a port to an instruction and back (spec/30_encoding.md R52 to R60, R68), and the reading
of a bare word of spec/opcode_table.json. -/

namespace Sys2Proof

/-- Reads a byte given to the transmitter: one of the three wire formats (R53, R54, R55), or any other byte, which
`SEND` takes as well (R84: "any value 0x00..0xFF"). -/
def decodeStart (b : Byte) : Instr :=
  if isAddrByte b then .addrFrame (b.extractLsb' 0 3)
  else if isRowByte b then .rowFrame (b.extractLsb' 0 5)
  else if isCtrlByte b then .ctrlFrame (b.extractLsb' 0 3)
  else .send b

/-- The command codes of R59 and R68; an operand the command does not read is ignored (R60). -/
def decodeCommand (p : CmdPins) : Instr :=
  if p.op = 0b000#3 then .init
  else if p.op = 0b001#3 then .renderChar p.ch p.pos
  else if p.op = 0b010#3 then .renderText p.text p.pos
  else if p.op = 0b011#3 then .setBrightness p.level
  else if p.op = 0b100#3 then .clear
  else if p.op = 0b101#3 then .reserved101
  else if p.op = 0b110#3 then .reserved110
  else .reserved111

/-- The instruction on a port. Every input of every port is one instruction: no operand is rejected (R125). -/
def decode : PortInput → Instr
  | .command p => decodeCommand p
  | .txStart b => decodeStart b
  | .romPort ch => .lookup ch
  | .addrPort pos => .addrEncode pos

/-- A command with the given code and every operand port at 0. -/
def barePins (op : BitVec 3) : CmdPins := ⟨op, 0, 0, 0, []⟩

/-- The byte of an address frame from its field (R53). -/
def addrByte (digit : BitVec 3) : Byte := 0b10100000#8 ||| digit.zeroExtend 8

/-- The byte of a row frame from its field (R54). -/
def rowWireByte (dots : BitVec 5) : Byte := dots.zeroExtend 8

/-- The byte of a control frame from its field (R55). -/
def ctrlByte (level : BitVec 3) : Byte := 0b11100000#8 ||| level.zeroExtend 8

/-- The encoder: the port and the levels that carry an instruction; unread operand ports at 0. -/
def encode : Instr → PortInput
  | .addrFrame d => .txStart (addrByte d)
  | .rowFrame p => .txStart (rowWireByte p)
  | .ctrlFrame v => .txStart (ctrlByte v)
  | .init => .command (barePins 0b000)
  | .renderChar ch pos => .command { barePins 0b001 with ch := ch, pos := pos }
  | .renderText text start => .command { barePins 0b010 with text := text, pos := start }
  | .setBrightness level => .command { barePins 0b011 with level := level }
  | .clear => .command (barePins 0b100)
  | .reserved101 => .command (barePins 0b101)
  | .reserved110 => .command (barePins 0b110)
  | .reserved111 => .command (barePins 0b111)
  | .lookup ch => .romPort ch
  | .send b => .txStart b
  | .addrEncode pos => .addrPort pos

/-- Why a bare word of the opcode table is rejected. -/
inductive DecodeError where
  /-- A byte outside the 48 values of R56, which the block never sends (R66). -/
  | neverSent
  /-- Neither a 3-bit command code nor one wire byte. -/
  | tooWide
  deriving DecidableEq, Repr

/-- Reads a bare word as spec/opcode_table.json numbers it: a command code 0 to 7 with its operand ports at 0 (R59), or
one wire byte (R52). DESIGN CHOICE (log entry 3): 0x00 to 0x07 are both command codes and row bytes; they are read as
command codes. -/
def decodeWord (nbits w : Nat) : Except DecodeError PortInput :=
  if w < 8 then .ok (.command (barePins (BitVec.ofNat 3 w)))
  else if nbits ≤ 8 && w < 256 then
    if hasWireFormat (BitVec.ofNat 8 w) then .ok (.txStart (BitVec.ofNat 8 w)) else .error .neverSent
  else .error .tooWide

/-- The instruction the decoder reads from a word of the opcode table (`none` where it rejects the word). -/
def decodeTableWord (nbits w : Nat) : Option Instr :=
  match decodeWord nbits w with
  | .ok p => some (decode p)
  | .error _ => none

end Sys2Proof
end

