-- ==== Sys2Proof/Machine/State.lean ====
section
/-! DEFINITION. The state of the block (spec/10_state.md R15 to R32; spec/43_display_controller.md R116), the reasons a
step can stop, and the state right after hardware reset. -/

namespace Sys2Proof.Machine

open Sys2Proof

/-- `phase` (R21): nothing to do; performing the three INIT events; performing frames. -/
inductive Phase where
  | idle
  | init
  | run
  deriving DecidableEq, Repr

/-- `kind` (R116): the frame in progress belongs to a glyph render, or stands alone. -/
inductive Kind where
  | glyph
  | ctrl
  deriving DecidableEq, Repr

/-- The block has no fault (R125). -/
inductive Fault where
  /-- Raised by the sequencer when `ev` is outside the range R21 gives it for its phase (0..25 in RUN, 0..2 in INIT), so
  that the position selects no line event. Safe: no step from a state within the ranges raises it. -/
  | sequencerPosition
  deriving DecidableEq, Repr

/-- The model refuses no instruction. -/
inductive Refusal where
  /-- Raised by an arm of `exec` for an instruction without a meaning; no arm is left so. Safe. -/
  | notModelled (mnemonic : String)
  deriving DecidableEq, Repr

/-- All the spec gives the machine; the glyph ROM is configuration (R12, R29: `Config.romByte`). -/
structure State where
  /-- The line registers `line[LOAD]`, `line[DATA]`, `line[CLOCK]`, `line[RESET]` (R15). -/
  lines : Lines
  /-- `initialized` (R19). -/
  initialized : Bool
  /-- `busy` (R20). -/
  busy : Bool
  /-- `phase` (R21). -/
  phase : Phase
  /-- `ev`, the index of the next line event (R21). -/
  ev : Nat
  /-- `frame`, the index of the frame inside a glyph render (R21). -/
  frame : Nat
  /-- `kind` (R116). -/
  kind : Kind
  /-- `op`, the accepted command code (R22). -/
  op : BitVec 3
  /-- `cur_byte`, the byte of the frame in progress (R22). -/
  curByte : Byte
  /-- `cur_ch`, before substitution (R22). -/
  curCh : CharCode
  /-- `cur_pos`, before clamping (R22). -/
  curPos : Position
  /-- `todo`, the glyph renders still to start (R116); it stands for `glyphs_left` (R21) and `text` (R22). -/
  todo : List (CharCode × Position)
  /-- The event trace `T` since hardware reset (R11). -/
  trace : List LineEvent
  /-- The events performed before the last hardware reset (R160: they stay performed). -/
  earlier : List LineEvent
  /-- The input pin `rst_n`, active low (R58, R141). -/
  rstN : Bool
  /-- What the environment presents at the ports, the first entry now, the others after it (R58, R118). -/
  pending : List PortInput
  /-- The MODEL's own record of what the last LOOKUP or ADDR_ENCODE performed on its own returned (the outputs `q` of
  R71 and `addr_byte` of R95); nothing reads it (log entry 5). -/
  answer : List Byte
  deriving DecidableEq, Repr

/-- `glyphs_left` (R21), the view of `todo` that R116 gives. -/
def State.glyphsLeft (s : State) : Nat := s.todo.length

/-- `text` (R22), the not yet rendered tail of the text, the view of `todo` that R116 gives. -/
def State.text (s : State) : List CharCode := s.todo.map Prod.fst

/-- Right after hardware reset, the first column of R32 (R141). DESIGN CHOICE (log entry 1): the registers R32 leaves
unspecified (`op`, `cur_byte`, `cur_ch`, `cur_pos`, `text`) and `kind` hold zero. -/
def State.reset : State where
  lines := Config.lineReset
  initialized := false
  busy := true
  phase := .init
  ev := 0
  frame := 0
  kind := .glyph
  op := 0
  curByte := 0
  curCh := 0
  curPos := 0
  todo := []
  trace := []
  earlier := []
  rstN := true
  pending := []
  answer := []

end Sys2Proof.Machine
end

