-- ==== Sys2Proof/Machine/Flags.lean ====
section
/-! DEFINITION. The two flags and what is computed from them (spec/10_state.md R19, R20; spec/43_display_controller.md
R116, R118). The block has no condition codes (R24). -/

namespace Sys2Proof.Machine

open Sys2Proof

/-- The output `cmd_ready` (R20): `initialized and not busy`. -/
def State.cmdReady (s : State) : Bool := s.initialized && !s.busy

/-- A command can be accepted: idle and ready (R116, R118). -/
def State.accepts (s : State) : Bool := s.phase == .idle && s.cmdReady

/-- The transmitter takes a `start`: no operation is in progress (R83). -/
def State.txFree (s : State) : Bool := s.phase == .idle

/-- The output `done` of the transmitter (R83): the frame's last event, `(LOAD,1)`, has been performed and no event since. -/
def State.txDone (s : State) : Bool := s.ev == 0 && s.trace.getLast? == some ⟨.load, true⟩

/-- Whether the idle block's step takes the input that stands at a port: at the command port by its handshake (R118), at the
transmitter when free (R83), at a combinational sub-block always (R71, R95). `step` asks this in idle and out of reset only, so
that during an operation or hardware reset every input waits. DESIGN CHOICE for the sub-blocks' ports (log entry 23): in the
block their outputs are there at any time and take no step (R13, R71, R95). -/
def State.takes (s : State) : PortInput → Bool
  | .command _ => s.accepts
  | .txStart _ => s.txFree
  | .romPort _ => true
  | .addrPort _ => true

/-- The input pin `cmd_valid` (R58): the host presents a command. -/
def State.cmdValid (s : State) : Bool :=
  match s.pending with
  | .command _ :: _ => true
  | _ => false

end Sys2Proof.Machine
end

