-- ==== Sys2Proof/Machine/Operands.lean ====
section
/-! DEFINITION. Operand assembly (spec/30_encoding.md R61 to R65): the three normalisations of R126 to R128, the ROM
index, and the bytes and frames made from them. -/

namespace Sys2Proof.Machine

open Sys2Proof

/-- `subst` (R74): a code outside [0x20, 0x7B] becomes the space. -/
def subst (ch : CharCode) : CharCode := if Config.chLo ≤ ch ∧ ch ≤ Config.chHiLookup then ch else Config.chLo

/-- `clamp_pos` (R96): a position above 7 becomes 0. -/
def clampPos (pos : Position) : Position := if pos.toNat < Config.nDigits then pos else 0

/-- `v = level[2:0]` (R64): masked, not clamped. -/
def maskLevel (level : Level) : BitVec 3 := level.extractLsb' 0 3

/-- `ADDR_ENCODE pos` (R96): `0b10100000 | zext_8(clamp_pos(pos))`. -/
def addrEncode (pos : Position) : Byte := 0b10100000#8 ||| (clampPos pos).zeroExtend 8

/-- The byte of SET_BRIGHTNESS (R111): `0b11100000 | zext_8(level[2:0])`. -/
def brightnessByte (level : Level) : Byte := ctrlByte (maskLevel level)

theorem subst_range (ch : CharCode) : 0x20 ≤ (subst ch).toNat ∧ (subst ch).toNat ≤ 0x7B := by
  unfold subst
  split
  · rename_i h
    exact h
  · decide

/-- The address of row `r` of the glyph of a character (R34, R65), in `ROM_AW` = 10 bits: `(subst(ch) - 0x20) * 7 + r`.
The row is 0 to 6 by its type (R82). -/
def romAddr (ch : CharCode) (r : Fin Config.nRows) : BitVec Config.romAw :=
  BitVec.ofNat Config.romAw (((subst ch).toNat - Config.chLo.toNat) * Config.nRows + r.val)

/-- In 10 bits the sum of R65 does not overflow. -/
theorem romAddr_toNat (ch : CharCode) (r : Fin Config.nRows) : (romAddr ch r).toNat = ((subst ch).toNat - 0x20) * 7 + r.val := by
  have h := subst_range ch
  have hr : r.val < 7 := r.isLt
  simp only [romAddr, BitVec.toNat_ofNat]
  exact Nat.mod_eq_of_lt (by show ((subst ch).toNat - 0x20) * 7 + r.val < 1024; omega)

/-- The address as an index of the ROM: the indices from `ROM_DEPTH` to 1023 are never formed (R34, R35). -/
def romIndex (ch : CharCode) (r : Fin Config.nRows) : Fin Config.romDepth :=
  ⟨(romAddr ch r).toNat, by
    have h := subst_range ch
    have hr : r.val < 7 := r.isLt
    rw [romAddr_toNat]
    show _ < 665
    omega⟩

theorem romIndex_val (ch : CharCode) (r : Fin Config.nRows) : (romIndex ch r).val = ((subst ch).toNat - 0x20) * 7 + r.val :=
  romAddr_toNat ch r

/-- The output `q` of `glyph_rom` (R71): the stored byte of one row. -/
def glyphRomQ (ch : CharCode) (r : Fin Config.nRows) : Byte := Config.romByte (romIndex ch r)

/-- `LOOKUP ch` (R75): `MemRead(i, 7)`, the seven stored bytes, row 0 first. -/
def lookup (ch : CharCode) : List Byte := (List.finRange Config.nRows).map (glyphRomQ ch)

/-- The row in wire format (R61): the stored byte shifted right by 3. -/
def rowByte (ch : CharCode) (r : Fin Config.nRows) : Byte := glyphRomQ ch r >>> 3

/-- `glyph_frames(ch, pos)` (R106): the address byte, then the seven row bytes. -/
def glyphFrames (ch : CharCode) (pos : Position) : List Byte := addrEncode pos :: (lookup ch).map (fun b : Byte => b >>> 3)

/-- The glyph renders of a text from a start position (R108): the position counter is not clamped and wraps modulo 256
(R63; log entry 7). -/
def textRenders : List CharCode → Position → List (CharCode × Position)
  | [], _ => []
  | c :: cs, p => (c, p) :: textRenders cs (p + 1)

/-- The glyph renders CLEAR still has to start after the first (R116). -/
def clearRest : List (CharCode × Position) :=
  (List.range (Config.nDigits - 1)).map (fun k => (Config.chLo, BitVec.ofNat Config.posW (k + 1)))

end Sys2Proof.Machine
end

