-- ==== Sys2Proof/Machine/Ops.lean ====
section
/-! DEFINITION. The shared operations: line writes and line events (spec/41_bit_serial_transmitter.md R84, R85), starting
a frame or the INIT sequence, accepting a command (spec/43_display_controller.md R116, R118), and hardware reset
(spec/70_reset_and_hazards.md R141, R160). The block has no exception to take and none to return from (R125, R133,
R134), and no memory to write (R36). -/

namespace Sys2Proof.Machine

open Sys2Proof

/-- `line[L]` (R10). -/
def lineLevel (ls : Lines) : Line → Bool
  | .load => ls.load
  | .data => ls.data
  | .clock => ls.clock
  | .reset => ls.reset

/-- The levels after one line event. -/
def applyEvent (ls : Lines) (e : LineEvent) : Lines :=
  match e.line with
  | .load => { ls with load := e.level }
  | .data => { ls with data := e.level }
  | .clock => { ls with clock := e.level }
  | .reset => { ls with reset := e.level }

/-- The waveform (R11): the levels a list of events leaves on the wires, from the levels before it. -/
def levelsAfter (ls : Lines) (es : List LineEvent) : Lines := es.foldl applyEvent ls

/-- `line[L] <- v` (R10): writes the register and appends the event to the trace, also when the level stays the same
(92 D15). -/
def State.perform (s : State) (e : LineEvent) : State :=
  { s with lines := applyEvent s.lines e, trace := s.trace ++ [e] }

/-- Every event the block has performed, those before the last hardware reset first (R160). -/
def State.performed (s : State) : List LineEvent := s.earlier ++ s.trace

/-- `frame_event(byte, e)` (R85): the event with index `e` of SEND, for `e` in 0..25. -/
def frameEvent (b : Byte) (e : Nat) : Option LineEvent :=
  if e = 0 then some ⟨.load, false⟩
  else if e = 25 then some ⟨.load, true⟩
  else if e ≤ 24 then
    if (e - 1) % 3 = 0 then some ⟨.data, b.getLsbD ((e - 1) / 3)⟩
    else if (e - 1) % 3 = 1 then some ⟨.clock, true⟩
    else some ⟨.clock, false⟩
  else none

/-- The events of `SEND byte` in order, from the pseudocode of R84. -/
def sendEvents (b : Byte) : List LineEvent :=
  [⟨.load, false⟩]
    ++ (List.range Config.frameBits).flatMap (fun i => [⟨.data, b.getLsbD i⟩, ⟨.clock, true⟩, ⟨.clock, false⟩])
    ++ [⟨.load, true⟩]

/-- The three events of INIT (R103). -/
def initEvents : List LineEvent := [⟨.load, true⟩, ⟨.reset, false⟩, ⟨.reset, true⟩]

/-- Starts the INIT sequence (R116 `accept(INIT)`). -/
def State.startInit (s : State) : State := { s with busy := true, phase := .init, ev := 0 }

/-- Starts one frame that stands alone (R116 `accept(SET_BRIGHTNESS)`; R83 for a `start` of the transmitter). -/
def State.startFrame (s : State) (b : Byte) : State :=
  { s with busy := true, kind := .ctrl, todo := [], frame := 0, curByte := b, ev := 0, phase := .run }

/-- Starts a glyph render, with the renders to follow it (R116 `accept(RENDER_CHAR)`, `accept(RENDER_TEXT)`,
`accept(CLEAR)`). -/
def State.startGlyphs (s : State) (ch : CharCode) (pos : Position) (todo : List (CharCode × Position)) : State :=
  { s with busy := true, kind := .glyph, curCh := ch, curPos := pos, todo := todo, frame := 0,
           curByte := addrEncode pos, ev := 0, phase := .run }

/-- Accepts a command (R116, R118): `op` takes its code (R22) and the operation starts. A command that is presented while
the block does not accept is neither executed nor lost: nothing changes (R118). -/
def accept (s : State) (op : BitVec 3) (start : State → State) : Host.Outcome State Fault Refusal :=
  .next (if s.accepts then start { s with op := op } else s)

/-- A `start` of the transmitter (R83): taken only when no frame is in progress. -/
def startTx (s : State) (b : Byte) : Host.Outcome State Fault Refusal :=
  .next (if s.txFree then s.startFrame b else s)

/-- Hardware reset (R141): every register to the first column of R32; a new, empty trace. The events already performed
stay performed (R160; log entry 6). The pins, which the environment drives, are not registers and stay. -/
def State.hardwareReset (s : State) : State :=
  { State.reset with earlier := s.performed, rstN := s.rstN, pending := s.pending }

/-- Puts an input first at the ports, with the block idle and initialised, so that the next step takes it. -/
def State.present (s : State) (p : PortInput) : State :=
  { s with rstN := true, phase := .idle, initialized := true, busy := false, pending := p :: s.pending }

end Sys2Proof.Machine
end

