-- ==== Sys2Proof/Machine/Command.lean ====
section
/-! DEFINITION. The five commands and the three reserved command codes (spec/43_display_controller.md R103 to R116;
spec/30_encoding.md R68). A command is accepted in one step without a line event; the steps after it perform its line
events, one each (R13, R116, R117). -/

namespace Sys2Proof.Machine

open Sys2Proof

/-- `INIT` (R103, R116). -/
def execInit (s : State) : Host.Outcome State Fault Refusal := accept s 0b000 State.startInit

/-- `RENDER_CHAR ch, pos` (R105, R116). -/
def execRenderChar (ch : CharCode) (pos : Position) (s : State) : Host.Outcome State Fault Refusal :=
  accept s 0b001 (·.startGlyphs ch pos [])

/-- `RENDER_TEXT text, start` (R108, R116): an empty text performs nothing and leaves the block idle (R110). -/
def execRenderText (text : List CharCode) (start : Position) (s : State) : Host.Outcome State Fault Refusal :=
  match text with
  | [] => .next s
  | c :: cs => accept s 0b010 (·.startGlyphs c start (textRenders cs (start + 1)))

/-- `SET_BRIGHTNESS level` (R111, R116). -/
def execSetBrightness (level : Level) (s : State) : Host.Outcome State Fault Refusal :=
  accept s 0b011 (·.startFrame (brightnessByte level))

/-- `CLEAR` (R113, R116). -/
def execClear (s : State) : Host.Outcome State Fault Refusal := accept s 0b100 (·.startGlyphs Config.chLo 0 clearRest)

/-- The reserved code 101 (R68): consumed, no line event, all architected state unchanged (log entry 8). -/
def execReserved101 (s : State) : Host.Outcome State Fault Refusal := .next s

/-- The reserved code 110 (R68): consumed, no line event, all architected state unchanged (log entry 8). -/
def execReserved110 (s : State) : Host.Outcome State Fault Refusal := .next s

/-- The reserved code 111 (R68): consumed, no line event, all architected state unchanged (log entry 8). -/
def execReserved111 (s : State) : Host.Outcome State Fault Refusal := .next s

end Sys2Proof.Machine
end

