-- ==== Sys2Proof/Machine/Primitive.lean ====
section
/-! DEFINITION. The three internal primitives (spec/00_scope.md R9): LOOKUP, SEND, ADDR_ENCODE, each on its own. -/

namespace Sys2Proof.Machine

open Sys2Proof

/-- `LOOKUP ch` (R75): returns the seven stored bytes; no line event, no flag, no register. -/
def execLookup (ch : CharCode) (s : State) : Host.Outcome State Fault Refusal := .next { s with answer := lookup ch }

/-- `SEND byte` (R84): one frame of 26 line events, which the following steps perform. -/
def execSend (byte : Byte) (s : State) : Host.Outcome State Fault Refusal := startTx s byte

/-- `ADDR_ENCODE pos` (R96): returns the address byte; no line event, no flag, no register. -/
def execAddrEncode (pos : Position) (s : State) : Host.Outcome State Fault Refusal := .next { s with answer := [addrEncode pos] }

end Sys2Proof.Machine
end

