-- ==== Sys2Proof/Machine/Wire.lean ====
section
/-! DEFINITION. The three wire byte formats (spec/30_encoding.md R52 to R55): each is one frame of that byte, sent by the
transmitter. What the display does with it is outside the block (spec/00_scope.md R6). -/

namespace Sys2Proof.Machine

open Sys2Proof

/-- `ADDR_FRAME` (R53): the frame of `1010 0DDD`. -/
def execAddrFrame (digit : BitVec 3) (s : State) : Host.Outcome State Fault Refusal := startTx s (addrByte digit)

/-- `ROW_FRAME` (R54): the frame of `000P PPPP`. -/
def execRowFrame (dots : BitVec 5) (s : State) : Host.Outcome State Fault Refusal := startTx s (rowWireByte dots)

/-- `CTRL_FRAME` (R55): the frame of `1110 0VVV`. -/
def execCtrlFrame (level : BitVec 3) (s : State) : Host.Outcome State Fault Refusal := startTx s (ctrlByte level)

end Sys2Proof.Machine
end

