-- ==== Sys2Proof/Machine/Dispatch.lean ====
section
/-! DEFINITION. The meaning of every row of spec/opcode_table.json, one arm each. -/

namespace Sys2Proof.Machine

open Sys2Proof

def exec (i : Instr) (s : State) : Host.Outcome State Fault Refusal :=
  match i with
  | .addrFrame digit => Sys2Proof.Machine.execAddrFrame digit s
  | .rowFrame dots => Sys2Proof.Machine.execRowFrame dots s
  | .ctrlFrame level => Sys2Proof.Machine.execCtrlFrame level s
  | .init => Sys2Proof.Machine.execInit s
  | .renderChar ch pos => Sys2Proof.Machine.execRenderChar ch pos s
  | .renderText text start => Sys2Proof.Machine.execRenderText text start s
  | .setBrightness level => Sys2Proof.Machine.execSetBrightness level s
  | .clear => Sys2Proof.Machine.execClear s
  | .reserved101 => Sys2Proof.Machine.execReserved101 s
  | .reserved110 => Sys2Proof.Machine.execReserved110 s
  | .reserved111 => Sys2Proof.Machine.execReserved111 s
  | .lookup ch => Sys2Proof.Machine.execLookup ch s
  | .send byte => Sys2Proof.Machine.execSend byte s
  | .addrEncode pos => Sys2Proof.Machine.execAddrEncode pos s

end Sys2Proof.Machine
end

