-- ==== Sys2Proof/Machine/Sequencer.lean ====
section
/-! DEFINITION. The reference sequencer's step (spec/43_display_controller.md R117): one line event. -/

namespace Sys2Proof.Machine

open Sys2Proof

/-- The branch `ev = 25` of R117: the frame is closed; the next row of the glyph, the next glyph render, or idle. -/
def State.closeFrame (s : State) : State :=
  if h : s.kind = .glyph ∧ s.frame < Config.nRows then
    { s with ev := 0, frame := s.frame + 1, curByte := rowByte s.curCh ⟨s.frame, h.2⟩ }
  else
    match s.todo with
    | (c, p) :: rest =>
      { s with ev := 0, curCh := c, curPos := p, todo := rest, frame := 0, curByte := addrEncode p }
    | [] => { s with ev := 0, phase := .idle, busy := false }

/-- The end of INIT (R117, branch `ev = 2`). -/
def State.finishInit (s : State) : State := { s with initialized := true, ev := 0, phase := .idle, busy := false }

/-- One step of the sequencer (R117): exactly one line event, then the new position. A position that selects no event is
outside the ranges of R21 and stops. -/
def State.sequence (s : State) : Host.Outcome State Fault Refusal :=
  match s.phase with
  | .idle => .next s
  | .init =>
    match initEvents[s.ev]? with
    | none => .fault .sequencerPosition
    | some e =>
      if s.ev = 2 then .next (s.perform e).finishInit
      else .next { s.perform e with ev := s.ev + 1 }
  | .run =>
    match frameEvent s.curByte s.ev with
    | none => .fault .sequencerPosition
    | some e =>
      if s.ev < 25 then .next { s.perform e with ev := s.ev + 1 }
      else .next (s.perform e).closeFrame

end Sys2Proof.Machine
end

