-- ==== Sys2Proof/Machine/Step.lean ====
section
/-! DEFINITION. One step of the machine: hardware reset while `rst_n` is low (spec/70_reset_and_hazards.md R141, R160);
else one line event of the operation in progress (spec/43_display_controller.md R117); else the input at the ports, if its
port takes it (R116, R118); else the block waits and performs nothing (R117, R121). -/

namespace Sys2Proof.Machine

open Sys2Proof

/-- DESIGN CHOICE (log entry 23): a LOOKUP or ADDR_ENCODE presented at a sub-block's own port is answered by one step without
a line event, in the idle block and out of reset only; it waits while an operation or hardware reset is in progress. The spec
gives these primitives no step (R13, R71, R95) and no run from outside (R9). -/
def step (s : State) : Host.Outcome State Fault Refusal :=
  if s.rstN = false then .next s.hardwareReset
  else if s.phase ≠ .idle then s.sequence
  else
    match s.pending with
    | [] => .next s
    | p :: rest => if s.takes p then exec (decode p) { s with pending := rest } else .next s

/-- `s` with the instruction of a table word first at the ports of the idle block (log entry 4). A word the decoder
rejects changes nothing. -/
def State.withFetchWord (s : State) (nbits w : Nat) : State :=
  match decodeWord nbits w with
  | .ok p => s.present p
  | .error _ => s

end Sys2Proof.Machine
end

