-- ==== Sys2Proof/Machine/Listener.lean ====
section
/-! DEFINITION. The listener contract (spec/20_memory.md R44 to R47): the reference decoding of a trace into the bytes a
listener latches. It is a reading of the trace and no part of the block's state (spec/00_scope.md R6, R30). -/

namespace Sys2Proof.Machine

open Sys2Proof

/-- What a listener makes of the waveform (R45 to R47). -/
inductive Heard where
  /-- A frame with exactly 8 samples, heard in step: the byte latched when LOAD goes high (R45). -/
  | byte (b : Byte)
  /-- A frame whose byte is undefined (R46; 93 U3): it has another number of samples, or the listener is out of sync. -/
  | broken
  /-- RESET low, then high: the display re-initialises itself (R47). -/
  | resetPulse
  deriving DecidableEq, Repr

/-- What the decoding of R47 keeps: the levels, the samples of the frame in progress, whether the listener's bit counter is
in sync with the frames (R46), and what was heard so far. -/
structure Listener where
  lines : Lines
  samples : List Bool
  inSync : Bool
  heard : List Heard
  deriving DecidableEq, Repr

/-- A listener that has heard nothing yet and is between frames. -/
def Listener.start (ls : Lines) (inSync : Bool) : Listener := { lines := ls, samples := [], inSync := inSync, heard := [] }

/-- The byte of a list of samples, the first sample as bit 0 (R45, R47). -/
def byteOfSamples : List Bool → Byte
  | [] => 0
  | b :: bs => (if b then 1 else 0) + 2 * byteOfSamples bs

/-- LOAD high after LOAD low (R45, R47): a frame of 8 samples is latched; any other takes the listener out of sync. While
it is out of sync no byte is defined (R46: "a subsequent RESET is required to recover"; 93 U3). -/
def Listener.closeFrame (d : Listener) : Listener :=
  if d.inSync = true ∧ d.samples.length = Config.frameBits then { d with heard := d.heard ++ [.byte (byteOfSamples d.samples)] }
  else { d with inSync := false, heard := d.heard ++ [.broken] }

/-- RESET high after RESET low (R46, R47): the display re-initialises itself, and the listener is in sync again. -/
def Listener.resync (d : Listener) : Listener := { d with inSync := true, heard := d.heard ++ [.resetPulse] }

/-- One event of the trace (R47): LOAD low opens a frame; a rising CLOCK while LOAD is low samples DATA (R44); LOAD high
after LOAD low closes it; RESET high after RESET low ends a RESET pulse. -/
def Listener.hear (d : Listener) (e : LineEvent) : Listener :=
  let d' := { d with lines := applyEvent d.lines e }
  match e.line, e.level with
  | .load, false => { d' with samples := [] }
  | .clock, true => if !d.lines.load && !d.lines.clock then { d' with samples := d.samples ++ [d.lines.data] } else d'
  | .load, true => if d.lines.load then d' else d'.closeFrame
  | .reset, true => if d.lines.reset then d' else d'.resync
  | _, _ => d'

/-- A list of events, one after the other. -/
def Listener.hearAll (d : Listener) (es : List LineEvent) : Listener := es.foldl Listener.hear d

/-- What a listener in sync and between frames hears of a list of events, from the levels before them (R47). -/
def heardFrom (ls : Lines) (es : List LineEvent) : List Heard := ((Listener.start ls true).hearAll es).heard

/-- What the display has heard since hardware reset. R160: its state is unknown then, so it is out of sync until the first
RESET pulse. -/
def State.heardSinceReset (s : State) : List Heard := ((Listener.start Config.lineReset false).hearAll s.trace).heard

/-- The display-side register a byte addresses, with the field it carries (R26, R53, R54, R55, R57). -/
inductive Target where
  | addressRegister (digit : BitVec 3)
  | digitRam (dots : BitVec 5)
  | control (level : BitVec 3)
  deriving DecidableEq, Repr

/-- The target of a byte of one of the three formats; `none` for a byte the block never sends, of which the spec says
nothing (R66; 91 N8). -/
def target (b : Byte) : Option Target :=
  if isAddrByte b then some (.addressRegister (b.extractLsb' 0 3))
  else if isRowByte b then some (.digitRam (b.extractLsb' 0 5))
  else if isCtrlByte b then some (.control (b.extractLsb' 0 3))
  else none

/-- The number of events of a list that are on a line (R115). -/
def countOn (l : Line) (es : List LineEvent) : Nat := (es.filter (fun e => e.line == l)).length

/-- The number of events of a list that change the level of their line `l`, from the levels before them (R91). -/
def levelChanges (l : Line) : Lines → List LineEvent → Nat
  | _, [] => 0
  | ls, e :: es =>
    (if e.line = l ∧ lineLevel ls l ≠ e.level then 1 else 0) + levelChanges l (applyEvent ls e) es

end Sys2Proof.Machine
end

