-- ==== Sys2Proof/Safety.lean ====
section
/-! DEFINITION. What counts as a safe run, in the terms the claims use: the edge contract of the trace (spec/20_memory.md
R44; spec/41_bit_serial_transmitter.md R87) and the invariants of the state (spec/10_state.md R20, R21, R31). -/

namespace Sys2Proof.Machine

open Sys2Proof

/-- No line but CLOCK is written while CLOCK is 1 (R44, R87). -/
def edgeContract : Lines → List LineEvent → Bool
  | _, [] => true
  | ls, e :: es => (e.line == .clock || !ls.clock) && edgeContract (applyEvent ls e) es

/-- The level LOAD must have before the event at a position (R88: low from event 0 to event 25). -/
def expectedLoad (s : State) : Bool :=
  match s.phase with
  | .run => s.ev == 0
  | _ => true

/-- The level CLOCK must have before the event at a position: high right after an event `2 + 3i` (R51). -/
def expectedClock (s : State) : Bool :=
  match s.phase with
  | .run => s.ev != 0 && s.ev % 3 == 0
  | _ => false

/-- The level RESET must have before the event at a position: low only inside the RESET pulse (R93, R103). -/
def expectedReset (s : State) : Bool :=
  match s.phase with
  | .init => s.ev != 2
  | _ => true

/-- The ranges of the sequencer position (R21). -/
def positionOk (s : State) : Bool :=
  decide (s.frame ≤ Config.nRows) &&
    match s.phase with
    | .idle => s.ev == 0
    | .init => decide (s.ev ≤ 2)
    | .run => decide (s.ev ≤ 25)

/-- The invariant of the machine. -/
structure MachineInv (s : State) : Prop where
  /-- The line registers are the waveform of the trace (R11). -/
  waveform : s.lines = levelsAfter Config.lineReset s.trace
  /-- `busy` is 1 exactly while an operation has events left (R20). -/
  busy : s.busy = (s.phase != .idle)
  /-- Before INIT has ended, the block performs INIT (R19, R120, R142). -/
  started : s.initialized = true ∨ s.phase = .init
  /-- The sequencer position is in range (R21). -/
  position : positionOk s = true
  /-- LOAD, CLOCK and RESET have the levels the position calls for (R31, R86, R88). -/
  load : s.lines.load = expectedLoad s
  clock : s.lines.clock = expectedClock s
  reset : s.lines.reset = expectedReset s

/-- The environment is the host alone: it drives the command port and no port of a sub-block (R9, R60). -/
def hostOnly (s : State) : Prop := ∀ p ∈ s.pending, ∃ pins, p = .command pins

/-- The byte in progress is one of the 48 of R56, now and in every glyph render to come. -/
def wireSafe (s : State) : Prop := s.phase = .run → hasWireFormat s.curByte = true

/-- The position of every glyph render still to start follows the one before it, modulo 256 (R23, R63). -/
def consecutive : Position → List (CharCode × Position) → Prop
  | _, [] => True
  | p, q :: rest => q.2 = p + 1 ∧ consecutive q.2 rest

/-- The position counter steps by one from glyph render to glyph render (R23). -/
def positionsStep (s : State) : Prop := s.kind = .glyph → s.phase = .run → consecutive s.curPos s.todo

/-- Two states that differ only in registers that are dead where they stand: when no frame is in progress the sequencer
registers of R22 and R32 and `frame`, `kind` and `todo`; in RUN as well `op` and `cur_pos`, which no branch of R117 reads (the
positions to come stand in `todo`, R116), and `cur_ch` when the frame stands alone. -/
structure SameButDead (s t : State) : Prop where
  lines : s.lines = t.lines
  initialized : s.initialized = t.initialized
  busy : s.busy = t.busy
  phase : s.phase = t.phase
  ev : s.ev = t.ev
  trace : s.trace = t.trace
  earlier : s.earlier = t.earlier
  rstN : s.rstN = t.rstN
  pending : s.pending = t.pending
  answer : s.answer = t.answer
  frame : s.phase = .run → s.frame = t.frame
  kind : s.phase = .run → s.kind = t.kind
  curByte : s.phase = .run → s.curByte = t.curByte
  todo : s.phase = .run → s.todo = t.todo
  curCh : s.phase = .run → s.kind = .glyph → s.curCh = t.curCh

/-- A step that does not stop. -/
def goesOn (s : State) : Prop := ∃ t, step s = .next t

/-- `k` steps one after the other, stopping at the first that stops. -/
def runs : Nat → State → Host.Outcome State Fault Refusal
  | 0, s => .next s
  | k + 1, s =>
    match step s with
    | .next t => runs k t
    | .fault r => .fault r
    | .refused r => .refused r

/-- From `s`, accepted, to `u`, complete (R119): the events `es` were performed and nothing else, and the block is ready
again; every register that is not the operation's own is as before. -/
structure Completed (s u : State) (es : List LineEvent) : Prop where
  trace : u.trace = s.trace ++ es
  lines : u.lines = levelsAfter s.lines es
  phase : u.phase = .idle
  busy : u.busy = false
  initialized : u.initialized = s.initialized
  earlier : u.earlier = s.earlier
  rstN : u.rstN = s.rstN
  pending : u.pending = s.pending
  answer : u.answer = s.answer

end Sys2Proof.Machine
end

