-- ==== Sys2Proof/Certificates/Slice0/Obligations.lean ====
section
/-! DEFINITION. The statements for the provers. Each docstring names the rule of spec/ it formalises, or the log entry of
notes/assumptions/ it rests on. -/

open Sys2Proof Sys2Proof.Machine

/-! ## Encoding -/

/-- Every well-formed instruction reads back from its encoding with every operand at every value; everything on a port
reads as a well-formed instruction; and no bit of a byte given to the transmitter is dropped. All three clauses rest on the
MODEL's coded form (log entry 19): an instruction is a port with the levels on its pins, and a byte at the transmitter that
has one of the three wire formats of R53 to R55 is read as that format's frame and not as SEND. -/
def Obligations.DecodeEncodeAgree : Prop :=
  (∀ i : Instr, i.wellFormed = true → decode (encode i) = i) ∧
  (∀ p : PortInput, (decode p).wellFormed = true) ∧
  (∀ b : Byte, encode (decode (.txStart b)) = .txStart b)

/-- The words of R53 to R55, R59 and R68 read as the instructions they stand for (R60: no other operand port is read).
The reading of 0x00 to 0x07 as command codes is the model's choice (log entry 3). -/
def Obligations.DecodeKnownWords : Prop :=
  decodeTableWord 8 0b10100101 = some (.addrFrame 5) ∧ decodeTableWord 8 0b00010001 = some (.rowFrame 0b10001) ∧
  decodeTableWord 8 0b11100110 = some (.ctrlFrame 6) ∧ decodeTableWord 8 0b000 = some .init ∧
  decode (.command ⟨0b001, 0x41, 2, 0xFF, [1]⟩) = .renderChar 0x41 2 ∧
  decode (.command ⟨0b010, 0xFF, 6, 0xFF, [0x41, 0x7E, 0x41]⟩) = .renderText [0x41, 0x7E, 0x41] 6 ∧
  decode (.command ⟨0b011, 0xFF, 0xFF, 15, [1]⟩) = .setBrightness 15 ∧
  decodeTableWord 8 0b100 = some .clear ∧ decodeTableWord 8 0b101 = some .reserved101 ∧
  decodeTableWord 8 0b110 = some .reserved110 ∧ decodeTableWord 8 0b111 = some .reserved111 ∧
  decode (.romPort 0x41) = .lookup 0x41 ∧ decode (.txStart 0x55) = .send 0x55 ∧ decode (.addrPort 9) = .addrEncode 9

/-- R59, R60: a command reads only its operands, whatever the other operand ports carry, and no command code gives an
internal primitive or a frame of its own. -/
def Obligations.UnreadOperandsIgnored : Prop :=
  (∀ p q : CmdPins, p.op = q.op → (p.op = 0b001 → p.ch = q.ch ∧ p.pos = q.pos) →
    (p.op = 0b010 → p.text = q.text ∧ p.pos = q.pos) → (p.op = 0b011 → p.level = q.level) →
    decode (.command p) = decode (.command q)) ∧
  (∀ (p : CmdPins) (x : Byte), decode (.command p) ≠ .lookup x ∧ decode (.command p) ≠ .send x ∧
    decode (.command p) ≠ .addrEncode x) ∧
  (∀ (p : CmdPins) (d : BitVec 3) (r : BitVec 5), decode (.command p) ≠ .addrFrame d ∧
    decode (.command p) ≠ .ctrlFrame d ∧ decode (.command p) ≠ .rowFrame r)

/-- R56, R59, R66, R68: what a bare word of the opcode table reads as, and which bare words are rejected. A word 0 to 7 is a
command code (the model's choice where it is a row byte too, log entry 3); a byte of the 48 values of R56 above 7 is the frame
of its format; a byte the block never sends (R66) is `neverSent`; anything wider is `tooWide`. -/
def Obligations.TableWordsRead : Prop :=
  ∀ nbits w : Nat,
    (w < 8 → decodeTableWord nbits w = some (decode (.command ⟨BitVec.ofNat 3 w, 0, 0, 0, []⟩))) ∧
    (8 ≤ w → w ≤ 0x1F → nbits ≤ 8 → decodeTableWord nbits w = some (.rowFrame (BitVec.ofNat 5 w))) ∧
    (0xA0 ≤ w → w ≤ 0xA7 → nbits ≤ 8 → decodeTableWord nbits w = some (.addrFrame (BitVec.ofNat 3 w))) ∧
    (0xE0 ≤ w → w ≤ 0xE7 → nbits ≤ 8 → decodeTableWord nbits w = some (.ctrlFrame (BitVec.ofNat 3 w))) ∧
    (0x20 ≤ w ∧ w ≤ 0x9F ∨ 0xA8 ≤ w ∧ w ≤ 0xDF ∨ 0xE8 ≤ w ∧ w ≤ 0xFF → nbits ≤ 8 →
      decodeWord nbits w = .error .neverSent ∧ decodeTableWord nbits w = none) ∧
    (8 ≤ w → 8 < nbits ∨ 0xFF < w → decodeWord nbits w = .error .tooWide ∧ decodeTableWord nbits w = none)

/-! ## The glyph ROM and the normalisations -/

/-- R77, R78: the glyph of 'A' at indices 231 to 237; every byte of the table has bits 2..0 equal to 0, so the shift loses
nothing. -/
def Obligations.LetterAAndPadding : Prop :=
  (List.map (fun r : Fin 7 => Config.romByte (⟨231 + r.val, by omega⟩ : Fin 665)) (List.finRange 7)
    = [0x20, 0x50, 0x88, 0xF8, 0x88, 0x88, 0x88]) ∧
  (∀ i, (Config.romByte i).extractLsb' 0 3 = 0 ∧ (Config.romByte i >>> 3) <<< 3 = Config.romByte i)

/-- R79 (with the spec's own inference for the shifted bytes) and R80 (the spec's reading, decision D19; log entry 10): the 92
bitmaps LOOKUP passes are pairwise distinct, as stored and as sent; the space is seven zero bytes. -/
def Obligations.GlyphsDistinctSpaceBlank : Prop :=
  (∀ k k' : Fin 92, k ≠ k' → ∃ r : Fin 7,
    Config.romByte (⟨7 * k.val + r.val, by omega⟩ : Fin 665) ≠ Config.romByte (⟨7 * k'.val + r.val, by omega⟩ : Fin 665) ∧
    Config.romByte (⟨7 * k.val + r.val, by omega⟩ : Fin 665) >>> 3 ≠ Config.romByte (⟨7 * k'.val + r.val, by omega⟩ : Fin 665) >>> 3) ∧
  (∀ r : Fin 7, Config.romByte (⟨r.val, by omega⟩ : Fin 665) = 0)

/-- R74: a code in [0x20, 0x7B], both bounds included, passes; every other code becomes 0x20, and LOOKUP returns the
bitmap of the code it became. -/
def Obligations.SubstitutionPolicy : Prop :=
  ∀ ch : Byte, (0x20 ≤ ch.toNat → ch.toNat ≤ 0x7B → subst ch = ch) ∧
    (ch.toNat < 0x20 → subst ch = 0x20) ∧ (0x7B < ch.toNat → subst ch = 0x20) ∧ lookup ch = lookup (subst ch)

/-- R101: the value table of ADDR_ENCODE over all 256 positions. -/
def Obligations.AddrEncodeTable : Prop :=
  ∀ pos : Byte, (pos.toNat ≤ 7 → addrEncode pos = 0xA0 ||| pos) ∧ (7 < pos.toNat → addrEncode pos = 0xA0)

/-- R34, R35, R65: the ROM index of every character and row is `(ch' - 0x20) * 7 + r` with `ch'` the substituted code, a
row-0 index is a multiple of 7, and no index above 643 is formed. -/
def Obligations.RomIndexReachable : Prop :=
  ∀ (ch : Byte) (r : Fin 7),
    (romIndex ch r).val = ((if 0x20 ≤ ch.toNat ∧ ch.toNat ≤ 0x7B then ch.toNat else 0x20) - 0x20) * 7 + r.val ∧
    (romIndex ch r).val ≤ 643 ∧ (romIndex ch 0).val % 7 = 0

/-- R75: LOOKUP returns the seven bytes from the index of the substituted code; no line event, no flag, no register
(`answer` is the model's record of the value returned, log entry 5). -/
def Obligations.LookupReturnsBitmap : Prop :=
  ∀ (ch : Byte) (s : State), ∃ g : List Byte, exec (.lookup ch) s = .next { s with answer := g } ∧ g.length = 7 ∧
    ∀ r : Fin 7, ∃ i : Fin 665,
      i.val = ((if 0x20 ≤ ch.toNat ∧ ch.toNat ≤ 0x7B then ch.toNat else 0x20) - 0x20) * 7 + r.val ∧
      g[r.val]? = some (Config.romByte i)

/-- R62, R107(a): every code outside [0x20, 0x7B] gives the frames of the space, and those are the address frame and
seven zero rows. -/
def Obligations.OutOfRangeIsSpace : Prop :=
  ∀ ch pos : Byte, (ch.toNat < 0x20 ∨ 0x7B < ch.toNat) →
    glyphFrames ch pos = glyphFrames 0x20 pos ∧ glyphFrames ch pos = [addrEncode pos, 0, 0, 0, 0, 0, 0, 0]

/-- R79 with R78 (V22): two characters that are passed and differ have frame lists that differ. -/
def Obligations.PassedGlyphsDiffer : Prop :=
  ∀ ch ch' pos pos' : Byte, 0x20 ≤ ch.toNat → ch.toNat ≤ 0x7B → 0x20 ≤ ch'.toNat → ch'.toNat ≤ 0x7B →
    glyphFrames ch pos = glyphFrames ch' pos' → ch = ch'

/-- R96: ADDR_ENCODE, on its own, returns `0xA0 | p` for p in 0..7 and 0xA0 for every other position; no line event, no flag, no
register (`answer` is the model's record of the value returned, log entry 5). -/
def Obligations.AddrEncodeReturnsByte : Prop :=
  ∀ (pos : Byte) (s : State),
    exec (.addrEncode pos) s = .next { s with answer := [if pos.toNat ≤ 7 then 0xA0 ||| pos else 0xA0] }

/-- R106: the frame list of a glyph render in the spec's own form, with the worked example of R105. -/
def Obligations.GlyphFramesForm : Prop :=
  (∀ ch pos : Byte, ∃ i : Fin 665, i.val ≤ 637 ∧
    i.val = ((if 0x20 ≤ ch.toNat ∧ ch.toNat ≤ 0x7B then ch.toNat else 0x20) - 0x20) * 7 ∧
    glyphFrames ch pos = (if pos.toNat ≤ 7 then 0xA0 ||| pos else 0xA0) ::
      (List.finRange 7).map (fun r => Config.romByte (i + Fin.ofNat 665 r.val) >>> 3)) ∧
  glyphFrames 0x41 2 = [0xA2, 0x04, 0x0A, 0x11, 0x1F, 0x11, 0x11, 0x11]

/-! ## The transmitter -/

/-- R85: SEND is the list of its 26 events in the closed form. -/
def Obligations.FrameEventClosedForm : Prop :=
  ∀ b : Byte, (List.range 26).map (frameEvent b) = (sendEvents b).map some

/-- R91, R115: a frame has 2 LOAD, 8 DATA and 16 CLOCK events and none on RESET; from LOAD 1, CLOCK 0 every LOAD and CLOCK
event changes its level, and the DATA changes are the bits that differ from the level before. -/
def Obligations.FrameCounts : Prop :=
  ∀ (b : Byte) (d r : Bool),
    countOn .load (sendEvents b) = 2 ∧ countOn .data (sendEvents b) = 8 ∧ countOn .clock (sendEvents b) = 16 ∧
    countOn .reset (sendEvents b) = 0 ∧
    levelChanges .load ⟨true, d, false, r⟩ (sendEvents b) = 2 ∧
    levelChanges .clock ⟨true, d, false, r⟩ (sendEvents b) = 16 ∧
    levelChanges .data ⟨true, d, false, r⟩ (sendEvents b)
      = ((List.range 8).filter (fun i => b.getLsbD i != (if i = 0 then d else b.getLsbD (i - 1)))).length

/-- R84, R86: SEND, started with no operation in progress, performs LOAD 0, eight times (DATA = bit, CLOCK 1, CLOCK 0) with
bit 0 first, LOAD 1, one event in each of the next 26 steps; then LOAD is 1, CLOCK 0, DATA bit 7 of the byte, RESET
unchanged, and nothing else has changed. -/
def Obligations.SendCompletes : Prop :=
  ∀ (b : Byte) (s : State), s.phase = .idle → s.rstN = true →
    sendEvents b = [⟨.load, false⟩] ++ (List.range 8).flatMap
      (fun i => [⟨.data, b.getLsbD i⟩, ⟨.clock, true⟩, ⟨.clock, false⟩]) ++ [⟨.load, true⟩] ∧
    ∃ t u, exec (.send b) s = .next t ∧ runs 26 t = .next u ∧ Completed s u (sendEvents b) ∧
      u.lines = ⟨true, b.getLsbD 7, false, s.lines.reset⟩ ∧ u.op = s.op ∧ u.curCh = s.curCh ∧ u.curPos = s.curPos

/-- R53, R54, R55 give the bytes, `1010 0DDD`, `000P PPPP`, `1110 0VVV`, and R84 the 26 events. That a formatted frame on its
own is one frame that stands alone, taken when idle whatever `initialized` is, with `op` unchanged, is the model's reading
(log entry 12, DEDUCED). -/
def Obligations.FormattedFramesComplete : Prop :=
  ∀ s : State, s.phase = .idle → s.rstN = true → ∀ (i : Instr) (b : Byte),
    ((∃ d : BitVec 3, i = .addrFrame d ∧ b = BitVec.ofNat 8 (0xA0 + d.toNat)) ∨
     (∃ p : BitVec 5, i = .rowFrame p ∧ b = BitVec.ofNat 8 p.toNat) ∨
     (∃ v : BitVec 3, i = .ctrlFrame v ∧ b = BitVec.ofNat 8 (0xE0 + v.toNat))) →
    ∃ t u, exec i s = .next t ∧ runs 26 t = .next u ∧ Completed s u (sendEvents b) ∧
      u.lines = ⟨true, b.getLsbD 7, false, s.lines.reset⟩ ∧ u.op = s.op ∧ u.curCh = s.curCh ∧ u.curPos = s.curPos

/-- R83: a `start` is taken only when no frame is in progress. That it also waits during the three INIT events, when no frame
is in progress, and that SEND and the three formatted frames then change nothing, is the model's reading (log entry 12,
DEDUCED). -/
def Obligations.StartWaitsWhileBusy : Prop :=
  ∀ s : State, s.phase ≠ .idle → (∀ b, exec (.send b) s = .next s) ∧ (∀ d, exec (.addrFrame d) s = .next s) ∧
    (∀ p, exec (.rowFrame p) s = .next s) ∧ (∀ v, exec (.ctrlFrame v) s = .next s)

/-! ## The commands -/

/-- R103, R104, R145: INIT, accepted, performs (LOAD,1), (RESET,0), (RESET,1) in the next 3 steps; `initialized` is 1; DATA
and CLOCK are as they were; no frame is sent. -/
def Obligations.InitCompletes : Prop :=
  ∀ s : State, s.accepts = true → s.rstN = true →
    ∃ t u, exec .init s = .next t ∧ runs 3 t = .next u ∧
      Completed s u [⟨.load, true⟩, ⟨.reset, false⟩, ⟨.reset, true⟩] ∧
      u.lines = ⟨true, s.lines.data, s.lines.clock, true⟩ ∧ u.initialized = true ∧
      u.curByte = s.curByte ∧ u.curCh = s.curCh ∧ u.curPos = s.curPos ∧ u.todo = s.todo ∧ u.kind = s.kind ∧ u.frame = s.frame

/-- R105, R106, R119: RENDER_CHAR, accepted, performs exactly the events of its 8 frames in the next 208 steps and leaves
the block ready, LOAD 1, CLOCK 0, DATA 0. -/
def Obligations.RenderCharCompletes : Prop :=
  ∀ (ch pos : Byte) (s : State), s.accepts = true → s.rstN = true →
    ∃ t u, exec (.renderChar ch pos) s = .next t ∧ t.busy = true ∧ t.op = 0b001 ∧
      runs 208 t = .next u ∧
      Completed s u ((glyphFrames ch pos).flatMap sendEvents) ∧ u.accepts = true ∧
      u.lines = ⟨true, false, false, s.lines.reset⟩

/-- R108, R109, R110: RENDER_TEXT, accepted, performs the glyph renders of its characters in order, character k at position
`(start + k) mod 256` before the clamp, 208 steps each, and leaves the block ready; an empty text performs nothing. The
counter's wrap past 255 is the spec's decision D24 (log entry 7). -/
def Obligations.RenderTextCompletes : Prop :=
  ∀ (text : List Byte) (start : Byte) (s : State), s.accepts = true → s.rstN = true →
    ∃ t u, exec (.renderText text start) s = .next t ∧ (text = [] → t = s) ∧
      runs (208 * text.length) t = .next u ∧
      Completed s u ((text.zipIdx.flatMap (fun (c, k) => glyphFrames c (start + BitVec.ofNat 8 k))).flatMap sendEvents) ∧
      u.accepts = true ∧ (text ≠ [] → t.busy = true ∧ t.op = 0b010 ∧ u.lines = ⟨true, false, false, s.lines.reset⟩)

/-- R111, R128: SET_BRIGHTNESS, accepted, performs the one frame of `0xE0 + level mod 8` in the next 26 steps and leaves the
block ready, LOAD 1, CLOCK 0, DATA 1. -/
def Obligations.SetBrightnessCompletes : Prop :=
  ∀ (level : Byte) (s : State), s.accepts = true → s.rstN = true →
    ∃ t u, exec (.setBrightness level) s = .next t ∧ t.busy = true ∧ t.op = 0b011 ∧
      runs 26 t = .next u ∧
      Completed s u (sendEvents (BitVec.ofNat 8 (0xE0 + level.toNat % 8))) ∧ u.accepts = true ∧
      u.lines = ⟨true, true, false, s.lines.reset⟩ ∧ u.curCh = s.curCh ∧ u.curPos = s.curPos

/-- R113: CLEAR, accepted, performs the 64 frames of eight space glyphs at positions 0 to 7 in order in the next 1664 steps
and leaves the block ready. -/
def Obligations.ClearCompletes : Prop :=
  ∀ s : State, s.accepts = true → s.rstN = true →
    ∃ t u, exec .clear s = .next t ∧ t.busy = true ∧ t.op = 0b100 ∧ runs 1664 t = .next u ∧
      Completed s u (((List.range 8).flatMap
        (fun p => [BitVec.ofNat 8 (0xA0 + p), 0, 0, 0, 0, 0, 0, 0])).flatMap sendEvents) ∧
      u.accepts = true ∧ u.lines = ⟨true, false, false, s.lines.reset⟩

/-- R68: a reserved code on the command port of the ready block is consumed by one step, with no line event and every
register unchanged. The rule also advises a model to refuse it; this model takes the hardware's effect (log entry 8). -/
def Obligations.ReservedCodesConsumed : Prop :=
  (∀ s : State, exec .reserved101 s = .next s ∧ exec .reserved110 s = .next s ∧ exec .reserved111 s = .next s) ∧
  (∀ (s : State) (p : CmdPins) (rest : List PortInput), s.accepts = true → s.rstN = true → 5 ≤ p.op.toNat →
    s.pending = .command p :: rest → step s = .next { s with pending := rest })

/-- R116, R118: a command presented while the block does not accept is neither executed nor lost. That `exec` of it answers
the same state is log entry 20 (DEDUCED); that what is presented is the list `pending`, which a step leaves in place while an
operation is in progress, a step of hardware reset too, is log entries 4 and 15 (DESIGN CHOICE). -/
def Obligations.CommandsWaitWhileBusy : Prop :=
  (∀ s : State, s.accepts = false → exec .init s = .next s ∧ exec .clear s = .next s ∧
    (∀ ch pos, exec (.renderChar ch pos) s = .next s) ∧ (∀ x p, exec (.renderText x p) s = .next s) ∧
    (∀ l, exec (.setBrightness l) s = .next s)) ∧
  (∀ s t : State, s.phase ≠ .idle → step s = .next t → t.pending = s.pending)

/-- R125: no instruction can fail: in every state `exec` answers a next state, and in it the lines, the trace,
`initialized`, the reset pin and the ports are as before. For a command this is R116: it is accepted without a line event.
For SEND and the three formatted frames it is the model's reading (log entry 12, DEDUCED): `exec` takes the start, and the 26
events of R84 are those of the next 26 steps. -/
def Obligations.ExecNeverFails : Prop :=
  ∀ (i : Instr) (s : State), ∃ t, exec i s = .next t ∧ t.lines = s.lines ∧ t.trace = s.trace ∧ t.earlier = s.earlier ∧
    t.initialized = s.initialized ∧ t.rstN = s.rstN ∧ t.pending = s.pending

/-- R114: CLEAR takes the block to the state of RENDER_TEXT of eight spaces from position 0, but for the command code. -/
def Obligations.ClearIsEightSpaces : Prop :=
  ∀ s t u : State, exec .clear s = .next t → exec (.renderText (List.replicate 8 0x20) 0) s = .next u →
    { t with op := u.op } = u

/-- R124: RENDER_CHAR takes the block to the state of RENDER_TEXT of one character, but for the command code. -/
def Obligations.RenderCharIsOneText : Prop :=
  ∀ (ch pos : Byte) (s t u : State), exec (.renderChar ch pos) s = .next t → exec (.renderText [ch] pos) s = .next u →
    { t with op := u.op } = u

/-- R116: what accepting each command makes of the state, and that everything else is as before. -/
def Obligations.AcceptTransitions : Prop :=
  ∀ s : State, s.accepts = true →
    exec .init s = .next { s with op := 0b000, busy := true, phase := .init, ev := 0 } ∧
    (∀ ch pos, exec (.renderChar ch pos) s = .next { s with
      op := 0b001, busy := true, kind := .glyph, curCh := ch, curPos := pos, todo := [], frame := 0,
      curByte := addrEncode pos, ev := 0, phase := .run }) ∧
    (∀ start, exec (.renderText [] start) s = .next s) ∧
    (∀ c cs start, exec (.renderText (c :: cs) start) s = .next { s with
      op := 0b010, busy := true, kind := .glyph, curCh := c, curPos := start, frame := 0,
      todo := cs.zipIdx.map (fun (x, j) => (x, start + 1 + BitVec.ofNat 8 j)),
      curByte := addrEncode start, ev := 0, phase := .run }) ∧
    (∀ level, exec (.setBrightness level) s = .next { s with
      op := 0b011, busy := true, kind := .ctrl, todo := [], frame := 0,
      curByte := 0xE0 ||| BitVec.ofNat 8 (level.toNat % 8), ev := 0, phase := .run }) ∧
    exec .clear s = .next { s with
      op := 0b100, busy := true, kind := .glyph, curCh := 0x20, curPos := 0, frame := 0,
      todo := [(0x20, 1), (0x20, 2), (0x20, 3), (0x20, 4), (0x20, 5), (0x20, 6), (0x20, 7)],
      curByte := 0xA0, ev := 0, phase := .run }

/-! ## The step -/

/-- R117: what one step makes of the state while an operation is in progress, in each of its branches. -/
def Obligations.SequencerTransitions : Prop :=
  ∀ s : State, s.rstN = true →
    (s.phase = .init → s.ev < 2 → ∃ e, initEvents[s.ev]? = some e ∧
      step s = .next { s.perform e with ev := s.ev + 1 }) ∧
    (s.phase = .init → s.ev = 2 →
      step s = .next { s.perform ⟨.reset, true⟩ with initialized := true, ev := 0, phase := .idle, busy := false }) ∧
    (s.phase = .run → s.ev < 25 → ∃ e, frameEvent s.curByte s.ev = some e ∧
      step s = .next { s.perform e with ev := s.ev + 1 }) ∧
    (s.phase = .run → s.ev = 25 → s.kind = .glyph → ∀ h : s.frame < 7,
      step s = .next { s.perform ⟨.load, true⟩ with
        ev := 0, frame := s.frame + 1, curByte := Config.romByte (romIndex s.curCh ⟨s.frame, h⟩) >>> 3 }) ∧
    (s.phase = .run → s.ev = 25 → ¬ (s.kind = .glyph ∧ s.frame < 7) → ∀ c p rest, s.todo = (c, p) :: rest →
      step s = .next { s.perform ⟨.load, true⟩ with
        ev := 0, curCh := c, curPos := p, todo := rest, frame := 0, curByte := addrEncode p }) ∧
    (s.phase = .run → s.ev = 25 → ¬ (s.kind = .glyph ∧ s.frame < 7) → s.todo = [] →
      step s = .next { s.perform ⟨.load, true⟩ with ev := 0, phase := .idle, busy := false })

/-- R116, R118, for a command: when the block is idle and out of reset and the port takes what is presented, a step is `exec`
of the decoded instruction, with the input taken from the port. That what is presented is the first entry of the list
`pending` is log entry 4 (DESIGN CHOICE); that an input at a port of a sub-block is answered by a step of its own, in idle
only, is log entry 23 (DESIGN CHOICE). -/
def Obligations.StepRunsDecoded : Prop :=
  ∀ (s : State) (p : PortInput) (rest : List PortInput), s.rstN = true → s.phase = .idle → s.pending = p :: rest →
    s.takes p = true → step s = exec (decode p) { s with pending := rest }

/-- R117, R121: idle with nothing presented, a step performs nothing (that this is a step is the model's choice, log
entry 9). -/
def Obligations.StepWaitsWhenIdle : Prop :=
  ∀ s : State, s.rstN = true → s.phase = .idle → s.pending = [] → step s = .next s

/-- R13, R23, R117: out of reset, with an operation in progress, a step performs exactly one line event, writes that line
alone, and leaves the reset pin, the ports, `op` and `answer` as before. -/
def Obligations.StepPerformsOneEvent : Prop :=
  ∀ s t : State, s.rstN = true → s.phase ≠ .idle → step s = .next t →
    ∃ e, t.trace = s.trace ++ [e] ∧ lineLevel t.lines e.line = e.level ∧
      (∀ l, l ≠ e.line → lineLevel t.lines l = lineLevel s.lines l) ∧
      t.earlier = s.earlier ∧ t.rstN = s.rstN ∧ t.pending = s.pending ∧ t.op = s.op ∧ t.answer = s.answer

/-- R48, R160: no step takes back, reorders or merges an event: what has been performed stays, and a step adds at most one
event to it. -/
def Obligations.EventsNeverLost : Prop :=
  ∀ s t : State, step s = .next t → ∃ es, t.performed = s.performed ++ es ∧ es.length ≤ 1

/-- R141, R160: while `rst_n` is low a step puts the registers into the first column of R32 with an empty trace, whatever
was in progress. (`earlier`, which keeps the events already performed, is the model's reading of R160, log entry 6.) -/
def Obligations.HardwareResetTakesOver : Prop :=
  ∀ s : State, s.rstN = false → ∃ t, step s = .next t ∧ t.lines = ⟨true, false, false, true⟩ ∧ t.initialized = false ∧
    t.busy = true ∧ t.phase = .init ∧ t.ev = 0 ∧ t.frame = 0 ∧ t.glyphsLeft = 0 ∧ t.trace = [] ∧ t.performed = s.performed ∧
    t.pending = s.pending ∧ t.rstN = false

/-- R142, R143: from any state right after hardware reset, once `rst_n` is high, the block performs INIT by itself in 3
steps and is then ready. -/
def Obligations.AutomaticInit : Prop :=
  ∀ s : State, ∃ u, runs 3 { s.hardwareReset with rstN := true } = .next u ∧
    u.lines = ⟨true, false, false, true⟩ ∧ u.initialized = true ∧ u.busy = false ∧ u.phase = .idle ∧ u.cmdReady = true ∧
    u.trace = [⟨.load, true⟩, ⟨.reset, false⟩, ⟨.reset, true⟩]

/-- R32, R141: what reset leaves, of the values the spec gives. -/
def Obligations.ResetValues : Prop :=
  State.reset.lines = ⟨true, false, false, true⟩ ∧ State.reset.initialized = false ∧ State.reset.busy = true ∧
  State.reset.phase = .init ∧ State.reset.ev = 0 ∧ State.reset.frame = 0 ∧ State.reset.glyphsLeft = 0 ∧
  State.reset.trace = [] ∧ State.reset.cmdReady = false

/-- R19: `initialized` goes from 0 to 1 only with the last event of INIT, and from 1 to 0 only by hardware reset. -/
def Obligations.InitializedChanges : Prop :=
  ∀ s t : State, step s = .next t →
    (s.initialized = false → t.initialized = true → s.rstN = true ∧ s.phase = .init ∧ s.ev = 2) ∧
    (s.initialized = true → t.initialized = false → s.rstN = false)

/-- R93: SEND never writes RESET: a step that is not one of INIT or of hardware reset performs no event on RESET and leaves
its level; and RESET is 1 throughout every frame, in every state that meets the invariant. -/
def Obligations.ResetLineOnlyByInit : Prop :=
  (∀ s t : State, s.rstN = true → s.phase ≠ .init → step s = .next t →
    t.lines.reset = s.lines.reset ∧ countOn .reset t.trace = countOn .reset s.trace) ∧
  (∀ b, countOn .reset (sendEvents b) = 0) ∧
  (∀ s : State, MachineInv s → s.phase = .run → s.lines.reset = true)

/-! ## Invariants -/

/-- The invariant holds after reset. -/
def Obligations.InvAtReset : Prop := MachineInv State.reset

/-- R11, R20, R21, R31, R86, R88: every step from every state that meets the invariant gives one that meets it. -/
def Obligations.StepKeepsInv : Prop := ∀ s t : State, MachineInv s → step s = .next t → MachineInv t

/-- R125: from a state that meets the invariant a step never stops. -/
def Obligations.StepNeverStops : Prop := ∀ s : State, MachineInv s → goesOn s

/-- R31, for every state that meets the invariant (which reset does and every step keeps): idle, LOAD is 1, CLOCK is 0 and
RESET is 1. -/
def Obligations.IdleLevels : Prop :=
  ∀ s : State, MachineInv s → s.phase = .idle → s.lines.load = true ∧ s.lines.clock = false ∧ s.lines.reset = true ∧
    s.cmdReady = true

/-- R87: in a frame the DATA write of bit `i` is followed at once by the rising and the falling CLOCK write, and the DATA write
of bit `i + 1` comes after the falling one; and no step breaks the edge contract: DATA and LOAD (and RESET) are written only
while CLOCK is 0. -/
def Obligations.EdgeContractKept : Prop :=
  (∀ (b : Byte) (i : Nat), i < 8 → (sendEvents b)[1 + 3 * i]? = some ⟨.data, b.getLsbD i⟩ ∧
    (sendEvents b)[2 + 3 * i]? = some ⟨.clock, true⟩ ∧ (sendEvents b)[3 + 3 * i]? = some ⟨.clock, false⟩) ∧
  (∀ s t : State, MachineInv s → edgeContract Config.lineReset s.trace = true → step s = .next t →
    edgeContract Config.lineReset t.trace = true)

/-- R56, R66: when only the host drives the ports, the byte of every frame is one of the 48 values, and stays so. -/
def Obligations.WireBytesKept : Prop :=
  ∀ s t : State, hostOnly s → wireSafe s → step s = .next t → hostOnly t ∧ wireSafe t

/-- R23, R63: the position counter goes from glyph render to glyph render by one, modulo 256 (the wrap is the spec's decision
D24, log entry 7), and changes at no other step of a glyph render; the positions of the renders still to start go on from it
one by one, and do so after every step. -/
def Obligations.PositionsStepKept : Prop :=
  ∀ s t : State, positionsStep s → step s = .next t → positionsStep t ∧
    (s.rstN = true → s.kind = .glyph → s.phase = .run →
      t.curPos = if s.ev = 25 ∧ 7 ≤ s.frame ∧ s.todo ≠ [] then s.curPos + 1 else s.curPos)

/-- R22 and R32 call the sequencer registers dead while the block is idle; that `op` and `cur_pos` are not read in RUN either,
nor `cur_ch` when the frame stands alone, follows from R116 and R117 (where `todo` holds the positions to come). Two states that
differ only in registers that are dead where the block stands step alike, and go on differing only there. -/
def Obligations.DeadRegistersUnread : Prop :=
  ∀ s s' t : State, SameButDead s s' → step s = .next t → ∃ t', step s' = .next t' ∧ SameButDead t t'

/-! ## The listener -/

/-- R37, R44, R45, R47: whatever bytes are sent, frame after frame from LOAD 1 and CLOCK 0, a listener that is in sync latches
exactly those bytes in that order. The listener as a function of the events is log entry 18 (DEDUCED; unsafe of a real
display, R135). -/
def Obligations.ListenerHearsFrames : Prop :=
  ∀ (bs : List Byte) (d r : Bool), heardFrom ⟨true, d, false, r⟩ (bs.flatMap sendEvents) = bs.map .byte

/-- R47 with R103, R105, R111: from a ready state that meets the invariant, a listener in sync hears the events of RENDER_CHAR
as the address byte and the seven row bytes of its glyph, those of SET_BRIGHTNESS as its control byte, and those of INIT as one
RESET pulse. R47's reference decoding gives bytes only: hearing the pulse, and the listener as a function, is log entry 18
(DEDUCED). -/
def Obligations.CommandsAreHeard : Prop :=
  ∀ s : State, MachineInv s → s.accepts = true → s.rstN = true →
    (∃ t u es, exec .init s = .next t ∧ runs 3 t = .next u ∧ u.trace = s.trace ++ es ∧
      heardFrom s.lines es = [.resetPulse]) ∧
    (∀ ch pos : Byte, ∃ t u es, exec (.renderChar ch pos) s = .next t ∧ runs 208 t = .next u ∧ u.trace = s.trace ++ es ∧
      heardFrom s.lines es =
        (addrEncode pos :: (List.finRange 7).map (fun r => Config.romByte (romIndex ch r) >>> 3)).map .byte) ∧
    (∀ level : Byte, ∃ t u es, exec (.setBrightness level) s = .next t ∧ runs 26 t = .next u ∧ u.trace = s.trace ++ es ∧
      heardFrom s.lines es = [.byte (BitVec.ofNat 8 (0xE0 + level.toNat % 8))])

/-- R46, with 93 U3: a frame that closes without exactly 8 samples takes the listener out of sync; out of sync it hears no
byte, whatever follows, until RESET goes high; and the events of INIT (R103) bring it back, so that every byte sent after them
is heard. That a broken frame is heard as `broken` is log entry 18 (DEDUCED). -/
def Obligations.BrokenFrameNeedsReset : Prop :=
  ∀ d : Listener,
    (d.lines.load = false → d.samples.length ≠ 8 →
      (d.hear ⟨.load, true⟩).inSync = false ∧ (d.hear ⟨.load, true⟩).heard = d.heard ++ [.broken]) ∧
    (∀ es : List LineEvent, d.inSync = false → ⟨.reset, true⟩ ∉ es →
      (d.hearAll es).inSync = false ∧ ∃ k, (d.hearAll es).heard = d.heard ++ List.replicate k .broken) ∧
    (∀ bs : List Byte, d.inSync = false → d.lines.clock = false →
      ∃ k, (d.hearAll (initEvents ++ bs.flatMap sendEvents)).heard
        = d.heard ++ List.replicate k .broken ++ [.resetPulse] ++ bs.map .byte)
end

