-- ==== Sys2Proof/Laws/Operands.lean ====
section
/-! SUPPORT. What the operand operations give, in plain numbers, so that no proof unfolds a parameter of Config. -/

namespace Sys2Proof.Machine

open Sys2Proof

theorem subst_toNat (ch : CharCode) :
    (subst ch).toNat = if 0x20 ≤ ch.toNat ∧ ch.toNat ≤ 0x7B then ch.toNat else 0x20 := by
  have h : (Config.chLo ≤ ch ∧ ch ≤ Config.chHiLookup) ↔ (0x20 ≤ ch.toNat ∧ ch.toNat ≤ 0x7B) := Iff.rfl
  by_cases hc : 0x20 ≤ ch.toNat ∧ ch.toNat ≤ 0x7B
  · rw [subst, if_pos (h.2 hc), if_pos hc]
  · rw [subst, if_neg (mt h.1 hc), if_neg hc]; rfl

/-- The stored byte of row `r` of the glyph of code `0x20 + k` (R72, R73). -/
theorem romByte_glyph (k : Fin 95) (r : Fin 7) (h : 7 * k.val + r.val < 665) :
    Config.romByte (⟨7 * k.val + r.val, h⟩ : Fin 665) = (Config.glyphRow k r).zeroExtend 8 <<< 3 := by
  have hk : (7 * k.val + r.val) / 7 = k.val := by omega
  have hr : (7 * k.val + r.val) % 7 = r.val := by omega
  unfold Config.romByte
  congr 3 <;> exact Fin.ext ‹_›

/-- The frames of a glyph render as an address byte and its row bytes (R106). -/
theorem glyphFrames_eq (ch : CharCode) (pos : Position) :
    glyphFrames ch pos = addrEncode pos :: (List.finRange 7).map (rowByte ch) := by
  simp [glyphFrames, lookup, rowByte, Function.comp_def]

theorem glyphFrames_length (ch : CharCode) (pos : Position) : (glyphFrames ch pos).length = 8 := by simp [glyphFrames_eq]

/-- The renders of CLEAR after the first, written out (R116). -/
theorem clearRest_eq : clearRest = [(0x20, 1), (0x20, 2), (0x20, 3), (0x20, 4), (0x20, 5), (0x20, 6), (0x20, 7)] := rfl

end Sys2Proof.Machine
end

