-- ==== Sys2Proof/Laws/State.lean ====
section
/-! SUPPORT. One lemma per field of State for every named update, so that no proof unfolds a record update. -/

namespace Sys2Proof.Machine

open Sys2Proof

section
variable (s : State)

@[simp] theorem State.perform_lines (e : LineEvent) : (s.perform e).lines = applyEvent s.lines e := rfl
@[simp] theorem State.perform_initialized (e : LineEvent) : (s.perform e).initialized = s.initialized := rfl
@[simp] theorem State.perform_busy (e : LineEvent) : (s.perform e).busy = s.busy := rfl
@[simp] theorem State.perform_phase (e : LineEvent) : (s.perform e).phase = s.phase := rfl
@[simp] theorem State.perform_ev (e : LineEvent) : (s.perform e).ev = s.ev := rfl
@[simp] theorem State.perform_frame (e : LineEvent) : (s.perform e).frame = s.frame := rfl
@[simp] theorem State.perform_kind (e : LineEvent) : (s.perform e).kind = s.kind := rfl
@[simp] theorem State.perform_op (e : LineEvent) : (s.perform e).op = s.op := rfl
@[simp] theorem State.perform_curByte (e : LineEvent) : (s.perform e).curByte = s.curByte := rfl
@[simp] theorem State.perform_curCh (e : LineEvent) : (s.perform e).curCh = s.curCh := rfl
@[simp] theorem State.perform_curPos (e : LineEvent) : (s.perform e).curPos = s.curPos := rfl
@[simp] theorem State.perform_todo (e : LineEvent) : (s.perform e).todo = s.todo := rfl
@[simp] theorem State.perform_trace (e : LineEvent) : (s.perform e).trace = s.trace ++ [e] := rfl
@[simp] theorem State.perform_earlier (e : LineEvent) : (s.perform e).earlier = s.earlier := rfl
@[simp] theorem State.perform_rstN (e : LineEvent) : (s.perform e).rstN = s.rstN := rfl
@[simp] theorem State.perform_pending (e : LineEvent) : (s.perform e).pending = s.pending := rfl
@[simp] theorem State.perform_answer (e : LineEvent) : (s.perform e).answer = s.answer := rfl

@[simp] theorem State.startInit_lines : s.startInit.lines = s.lines := rfl
@[simp] theorem State.startInit_initialized : s.startInit.initialized = s.initialized := rfl
@[simp] theorem State.startInit_busy : s.startInit.busy = true := rfl
@[simp] theorem State.startInit_phase : s.startInit.phase = .init := rfl
@[simp] theorem State.startInit_ev : s.startInit.ev = 0 := rfl
@[simp] theorem State.startInit_frame : s.startInit.frame = s.frame := rfl
@[simp] theorem State.startInit_kind : s.startInit.kind = s.kind := rfl
@[simp] theorem State.startInit_op : s.startInit.op = s.op := rfl
@[simp] theorem State.startInit_curByte : s.startInit.curByte = s.curByte := rfl
@[simp] theorem State.startInit_curCh : s.startInit.curCh = s.curCh := rfl
@[simp] theorem State.startInit_curPos : s.startInit.curPos = s.curPos := rfl
@[simp] theorem State.startInit_todo : s.startInit.todo = s.todo := rfl
@[simp] theorem State.startInit_trace : s.startInit.trace = s.trace := rfl
@[simp] theorem State.startInit_earlier : s.startInit.earlier = s.earlier := rfl
@[simp] theorem State.startInit_rstN : s.startInit.rstN = s.rstN := rfl
@[simp] theorem State.startInit_pending : s.startInit.pending = s.pending := rfl
@[simp] theorem State.startInit_answer : s.startInit.answer = s.answer := rfl

@[simp] theorem State.startFrame_lines (b : Byte) : (s.startFrame b).lines = s.lines := rfl
@[simp] theorem State.startFrame_initialized (b : Byte) : (s.startFrame b).initialized = s.initialized := rfl
@[simp] theorem State.startFrame_busy (b : Byte) : (s.startFrame b).busy = true := rfl
@[simp] theorem State.startFrame_phase (b : Byte) : (s.startFrame b).phase = .run := rfl
@[simp] theorem State.startFrame_ev (b : Byte) : (s.startFrame b).ev = 0 := rfl
@[simp] theorem State.startFrame_frame (b : Byte) : (s.startFrame b).frame = 0 := rfl
@[simp] theorem State.startFrame_kind (b : Byte) : (s.startFrame b).kind = .ctrl := rfl
@[simp] theorem State.startFrame_op (b : Byte) : (s.startFrame b).op = s.op := rfl
@[simp] theorem State.startFrame_curByte (b : Byte) : (s.startFrame b).curByte = b := rfl
@[simp] theorem State.startFrame_curCh (b : Byte) : (s.startFrame b).curCh = s.curCh := rfl
@[simp] theorem State.startFrame_curPos (b : Byte) : (s.startFrame b).curPos = s.curPos := rfl
@[simp] theorem State.startFrame_todo (b : Byte) : (s.startFrame b).todo = [] := rfl
@[simp] theorem State.startFrame_trace (b : Byte) : (s.startFrame b).trace = s.trace := rfl
@[simp] theorem State.startFrame_earlier (b : Byte) : (s.startFrame b).earlier = s.earlier := rfl
@[simp] theorem State.startFrame_rstN (b : Byte) : (s.startFrame b).rstN = s.rstN := rfl
@[simp] theorem State.startFrame_pending (b : Byte) : (s.startFrame b).pending = s.pending := rfl
@[simp] theorem State.startFrame_answer (b : Byte) : (s.startFrame b).answer = s.answer := rfl

@[simp] theorem State.startGlyphs_lines (c p : Byte) (l : List (Byte × Byte)) : (s.startGlyphs c p l).lines = s.lines := rfl
@[simp] theorem State.startGlyphs_initialized (c p : Byte) (l : List (Byte × Byte)) : (s.startGlyphs c p l).initialized = s.initialized := rfl
@[simp] theorem State.startGlyphs_busy (c p : Byte) (l : List (Byte × Byte)) : (s.startGlyphs c p l).busy = true := rfl
@[simp] theorem State.startGlyphs_phase (c p : Byte) (l : List (Byte × Byte)) : (s.startGlyphs c p l).phase = .run := rfl
@[simp] theorem State.startGlyphs_ev (c p : Byte) (l : List (Byte × Byte)) : (s.startGlyphs c p l).ev = 0 := rfl
@[simp] theorem State.startGlyphs_frame (c p : Byte) (l : List (Byte × Byte)) : (s.startGlyphs c p l).frame = 0 := rfl
@[simp] theorem State.startGlyphs_kind (c p : Byte) (l : List (Byte × Byte)) : (s.startGlyphs c p l).kind = .glyph := rfl
@[simp] theorem State.startGlyphs_op (c p : Byte) (l : List (Byte × Byte)) : (s.startGlyphs c p l).op = s.op := rfl
@[simp] theorem State.startGlyphs_curByte (c p : Byte) (l : List (Byte × Byte)) : (s.startGlyphs c p l).curByte = addrEncode p := rfl
@[simp] theorem State.startGlyphs_curCh (c p : Byte) (l : List (Byte × Byte)) : (s.startGlyphs c p l).curCh = c := rfl
@[simp] theorem State.startGlyphs_curPos (c p : Byte) (l : List (Byte × Byte)) : (s.startGlyphs c p l).curPos = p := rfl
@[simp] theorem State.startGlyphs_todo (c p : Byte) (l : List (Byte × Byte)) : (s.startGlyphs c p l).todo = l := rfl
@[simp] theorem State.startGlyphs_trace (c p : Byte) (l : List (Byte × Byte)) : (s.startGlyphs c p l).trace = s.trace := rfl
@[simp] theorem State.startGlyphs_earlier (c p : Byte) (l : List (Byte × Byte)) : (s.startGlyphs c p l).earlier = s.earlier := rfl
@[simp] theorem State.startGlyphs_rstN (c p : Byte) (l : List (Byte × Byte)) : (s.startGlyphs c p l).rstN = s.rstN := rfl
@[simp] theorem State.startGlyphs_pending (c p : Byte) (l : List (Byte × Byte)) : (s.startGlyphs c p l).pending = s.pending := rfl
@[simp] theorem State.startGlyphs_answer (c p : Byte) (l : List (Byte × Byte)) : (s.startGlyphs c p l).answer = s.answer := rfl

@[simp] theorem State.finishInit_lines : s.finishInit.lines = s.lines := rfl
@[simp] theorem State.finishInit_initialized : s.finishInit.initialized = true := rfl
@[simp] theorem State.finishInit_busy : s.finishInit.busy = false := rfl
@[simp] theorem State.finishInit_phase : s.finishInit.phase = .idle := rfl
@[simp] theorem State.finishInit_ev : s.finishInit.ev = 0 := rfl
@[simp] theorem State.finishInit_frame : s.finishInit.frame = s.frame := rfl
@[simp] theorem State.finishInit_kind : s.finishInit.kind = s.kind := rfl
@[simp] theorem State.finishInit_op : s.finishInit.op = s.op := rfl
@[simp] theorem State.finishInit_curByte : s.finishInit.curByte = s.curByte := rfl
@[simp] theorem State.finishInit_curCh : s.finishInit.curCh = s.curCh := rfl
@[simp] theorem State.finishInit_curPos : s.finishInit.curPos = s.curPos := rfl
@[simp] theorem State.finishInit_todo : s.finishInit.todo = s.todo := rfl
@[simp] theorem State.finishInit_trace : s.finishInit.trace = s.trace := rfl
@[simp] theorem State.finishInit_earlier : s.finishInit.earlier = s.earlier := rfl
@[simp] theorem State.finishInit_rstN : s.finishInit.rstN = s.rstN := rfl
@[simp] theorem State.finishInit_pending : s.finishInit.pending = s.pending := rfl
@[simp] theorem State.finishInit_answer : s.finishInit.answer = s.answer := rfl

@[simp] theorem State.present_lines (x : PortInput) : (s.present x).lines = s.lines := rfl
@[simp] theorem State.present_initialized (x : PortInput) : (s.present x).initialized = true := rfl
@[simp] theorem State.present_busy (x : PortInput) : (s.present x).busy = false := rfl
@[simp] theorem State.present_phase (x : PortInput) : (s.present x).phase = .idle := rfl
@[simp] theorem State.present_ev (x : PortInput) : (s.present x).ev = s.ev := rfl
@[simp] theorem State.present_frame (x : PortInput) : (s.present x).frame = s.frame := rfl
@[simp] theorem State.present_kind (x : PortInput) : (s.present x).kind = s.kind := rfl
@[simp] theorem State.present_op (x : PortInput) : (s.present x).op = s.op := rfl
@[simp] theorem State.present_curByte (x : PortInput) : (s.present x).curByte = s.curByte := rfl
@[simp] theorem State.present_curCh (x : PortInput) : (s.present x).curCh = s.curCh := rfl
@[simp] theorem State.present_curPos (x : PortInput) : (s.present x).curPos = s.curPos := rfl
@[simp] theorem State.present_todo (x : PortInput) : (s.present x).todo = s.todo := rfl
@[simp] theorem State.present_trace (x : PortInput) : (s.present x).trace = s.trace := rfl
@[simp] theorem State.present_earlier (x : PortInput) : (s.present x).earlier = s.earlier := rfl
@[simp] theorem State.present_rstN (x : PortInput) : (s.present x).rstN = true := rfl
@[simp] theorem State.present_pending (x : PortInput) : (s.present x).pending = x :: s.pending := rfl
@[simp] theorem State.present_answer (x : PortInput) : (s.present x).answer = s.answer := rfl

@[simp] theorem State.hardwareReset_lines : s.hardwareReset.lines = Config.lineReset := rfl
@[simp] theorem State.hardwareReset_initialized : s.hardwareReset.initialized = false := rfl
@[simp] theorem State.hardwareReset_busy : s.hardwareReset.busy = true := rfl
@[simp] theorem State.hardwareReset_phase : s.hardwareReset.phase = .init := rfl
@[simp] theorem State.hardwareReset_ev : s.hardwareReset.ev = 0 := rfl
@[simp] theorem State.hardwareReset_frame : s.hardwareReset.frame = 0 := rfl
@[simp] theorem State.hardwareReset_kind : s.hardwareReset.kind = .glyph := rfl
@[simp] theorem State.hardwareReset_op : s.hardwareReset.op = 0 := rfl
@[simp] theorem State.hardwareReset_curByte : s.hardwareReset.curByte = 0 := rfl
@[simp] theorem State.hardwareReset_curCh : s.hardwareReset.curCh = 0 := rfl
@[simp] theorem State.hardwareReset_curPos : s.hardwareReset.curPos = 0 := rfl
@[simp] theorem State.hardwareReset_todo : s.hardwareReset.todo = [] := rfl
@[simp] theorem State.hardwareReset_trace : s.hardwareReset.trace = [] := rfl
@[simp] theorem State.hardwareReset_earlier : s.hardwareReset.earlier = s.earlier ++ s.trace := rfl
@[simp] theorem State.hardwareReset_rstN : s.hardwareReset.rstN = s.rstN := rfl
@[simp] theorem State.hardwareReset_pending : s.hardwareReset.pending = s.pending := rfl
@[simp] theorem State.hardwareReset_answer : s.hardwareReset.answer = [] := rfl

@[simp] theorem State.closeFrame_lines : s.closeFrame.lines = s.lines := by
  unfold State.closeFrame; split <;> [rfl; split <;> rfl]

@[simp] theorem State.closeFrame_initialized : s.closeFrame.initialized = s.initialized := by
  unfold State.closeFrame; split <;> [rfl; split <;> rfl]

@[simp] theorem State.closeFrame_kind : s.closeFrame.kind = s.kind := by
  unfold State.closeFrame; split <;> [rfl; split <;> rfl]

@[simp] theorem State.closeFrame_op : s.closeFrame.op = s.op := by
  unfold State.closeFrame; split <;> [rfl; split <;> rfl]

@[simp] theorem State.closeFrame_trace : s.closeFrame.trace = s.trace := by
  unfold State.closeFrame; split <;> [rfl; split <;> rfl]

@[simp] theorem State.closeFrame_earlier : s.closeFrame.earlier = s.earlier := by
  unfold State.closeFrame; split <;> [rfl; split <;> rfl]

@[simp] theorem State.closeFrame_rstN : s.closeFrame.rstN = s.rstN := by
  unfold State.closeFrame; split <;> [rfl; split <;> rfl]

@[simp] theorem State.closeFrame_pending : s.closeFrame.pending = s.pending := by
  unfold State.closeFrame; split <;> [rfl; split <;> rfl]

@[simp] theorem State.closeFrame_answer : s.closeFrame.answer = s.answer := by
  unfold State.closeFrame; split <;> [rfl; split <;> rfl]

@[simp] theorem State.closeFrame_ev : s.closeFrame.ev = 0 := by
  unfold State.closeFrame; split <;> [rfl; split <;> rfl]

end

end Sys2Proof.Machine
end

