-- ==== Sys2Proof/Laws/Ops.lean ====
section
/-! SUPPORT. One lemma per shared operation that says everything it can do, and the inversion of `sequence` and `step`. -/

namespace Sys2Proof.Machine

open Sys2Proof

/-- A command: accepted and started, or nothing changes. -/
theorem accept_cases (s : State) (op : BitVec 3) (f : State → State) :
    (s.accepts = true ∧ accept s op f = .next (f { s with op := op })) ∨ (s.accepts = false ∧ accept s op f = .next s) := by
  cases h : s.accepts <;> simp [accept, h]

/-- A `start` of the transmitter: taken, or nothing changes. -/
theorem startTx_cases (s : State) (b : Byte) :
    (s.phase = .idle ∧ startTx s b = .next (s.startFrame b)) ∨ (s.phase ≠ .idle ∧ startTx s b = .next s) := by
  by_cases h : s.phase = .idle <;> simp [startTx, State.txFree, h]

theorem accepts_iff (s : State) : s.accepts = true ↔ s.phase = .idle ∧ s.initialized = true ∧ s.busy = false := by
  simp [State.accepts, State.cmdReady]

theorem levelsAfter_nil (ls : Lines) : levelsAfter ls [] = ls := rfl

theorem levelsAfter_append (ls : Lines) (es es' : List LineEvent) :
    levelsAfter ls (es ++ es') = levelsAfter (levelsAfter ls es) es' := by
  simp [levelsAfter, List.foldl_append]

theorem levelsAfter_snoc (ls : Lines) (es : List LineEvent) (e : LineEvent) :
    levelsAfter ls (es ++ [e]) = applyEvent (levelsAfter ls es) e := by
  simp [levelsAfter, List.foldl_append]

/-- SEND as 26 events written out. -/
theorem sendEvents_eq (b : Byte) : sendEvents b =
    [⟨.load, false⟩,
     ⟨.data, b.getLsbD 0⟩, ⟨.clock, true⟩, ⟨.clock, false⟩, ⟨.data, b.getLsbD 1⟩, ⟨.clock, true⟩, ⟨.clock, false⟩,
     ⟨.data, b.getLsbD 2⟩, ⟨.clock, true⟩, ⟨.clock, false⟩, ⟨.data, b.getLsbD 3⟩, ⟨.clock, true⟩, ⟨.clock, false⟩,
     ⟨.data, b.getLsbD 4⟩, ⟨.clock, true⟩, ⟨.clock, false⟩, ⟨.data, b.getLsbD 5⟩, ⟨.clock, true⟩, ⟨.clock, false⟩,
     ⟨.data, b.getLsbD 6⟩, ⟨.clock, true⟩, ⟨.clock, false⟩, ⟨.data, b.getLsbD 7⟩, ⟨.clock, true⟩, ⟨.clock, false⟩,
     ⟨.load, true⟩] := rfl

theorem sendEvents_length (b : Byte) : (sendEvents b).length = 26 := rfl

theorem frameEvent_none {b : Byte} {e : Nat} (h : 25 < e) : frameEvent b e = none := by
  have h0 : e ≠ 0 := by omega
  have h1 : e ≠ 25 := by omega
  have h2 : ¬ e ≤ 24 := by omega
  simp [frameEvent, h0, h1, h2]

theorem frameEvent_some {b : Byte} {e : Nat} (h : e ≤ 25) : ∃ x, frameEvent b e = some x := by
  unfold frameEvent
  by_cases h0 : e = 0
  · exact ⟨_, by rw [if_pos h0]⟩
  · by_cases h1 : e = 25
    · exact ⟨_, by rw [if_neg h0, if_pos h1]⟩
    · rw [if_neg h0, if_neg h1, if_pos (by omega)]
      split
      · exact ⟨_, rfl⟩
      · split <;> exact ⟨_, rfl⟩

/-- What one step of the sequencer can do (R117). -/
theorem sequence_cases {s t : State} (h : s.sequence = .next t) :
    (s.phase = .idle ∧ t = s) ∨
    (∃ e, s.phase = .init ∧ initEvents[s.ev]? = some e ∧ s.ev = 2 ∧ t = (s.perform e).finishInit) ∨
    (∃ e, s.phase = .init ∧ initEvents[s.ev]? = some e ∧ s.ev ≠ 2 ∧ t = { s.perform e with ev := s.ev + 1 }) ∨
    (∃ e, s.phase = .run ∧ frameEvent s.curByte s.ev = some e ∧ s.ev < 25 ∧ t = { s.perform e with ev := s.ev + 1 }) ∨
    (∃ e, s.phase = .run ∧ frameEvent s.curByte s.ev = some e ∧ s.ev = 25 ∧ t = (s.perform e).closeFrame) := by
  unfold State.sequence at h
  split at h
  · next hp => cases h; exact .inl ⟨hp, rfl⟩
  · next hp =>
    split at h
    · cases h
    · next e he =>
      split at h
      · next h2 => cases h; exact .inr (.inl ⟨e, hp, he, h2, rfl⟩)
      · next h2 => cases h; exact .inr (.inr (.inl ⟨e, hp, he, h2, rfl⟩))
  · next hp =>
    split at h
    · cases h
    · next e he =>
      split at h
      · next h2 => cases h; exact .inr (.inr (.inr (.inl ⟨e, hp, he, h2, rfl⟩)))
      · next h2 =>
        have : s.ev = 25 := by
          by_contra hne
          rw [frameEvent_none (by omega)] at he
          cases he
        cases h
        exact .inr (.inr (.inr (.inr ⟨e, hp, he, this, rfl⟩)))

/-- What the closing of a frame can do (R117, branch `ev = 25`). -/
theorem closeFrame_cases (s : State) :
    (∃ h : s.frame < 7, s.kind = .glyph ∧
      s.closeFrame = { s with ev := 0, frame := s.frame + 1, curByte := rowByte s.curCh ⟨s.frame, h⟩ }) ∨
    (¬ (s.kind = .glyph ∧ s.frame < 7) ∧ ∃ c p rest, s.todo = (c, p) :: rest ∧
      s.closeFrame = { s with ev := 0, curCh := c, curPos := p, todo := rest, frame := 0, curByte := addrEncode p }) ∨
    (¬ (s.kind = .glyph ∧ s.frame < 7) ∧ s.todo = [] ∧ s.closeFrame = { s with ev := 0, phase := .idle, busy := false }) := by
  unfold State.closeFrame
  split
  · next h => exact .inl ⟨h.2, h.1, rfl⟩
  · next h =>
    split
    · next c p rest ht => exact .inr (.inl ⟨h, c, p, rest, ht, rfl⟩)
    · next ht => exact .inr (.inr ⟨h, ht, rfl⟩)

/-- What one step of the machine can do. -/
theorem step_cases {s t : State} (h : step s = .next t) :
    (s.rstN = false ∧ t = s.hardwareReset) ∨
    (s.rstN = true ∧ s.phase ≠ .idle ∧ s.sequence = .next t) ∨
    (s.rstN = true ∧ s.phase = .idle ∧ t = s ∧ (s.pending = [] ∨ ∃ p rest, s.pending = p :: rest ∧ s.takes p = false)) ∨
    (∃ p rest, s.rstN = true ∧ s.phase = .idle ∧ s.pending = p :: rest ∧ s.takes p = true ∧
      exec (decode p) { s with pending := rest } = .next t) := by
  unfold step at h
  split at h
  · next h0 => cases h; exact .inl ⟨h0, rfl⟩
  · next h0 =>
    have h1 : s.rstN = true := by simpa using h0
    split at h
    · next hp => exact .inr (.inl ⟨h1, hp, h⟩)
    · next hp =>
      have hp' : s.phase = .idle := by simpa using hp
      split at h
      · next hn => cases h; exact .inr (.inr (.inl ⟨h1, hp', rfl, .inl hn⟩))
      · next p rest hq =>
        split at h
        · next ht => exact .inr (.inr (.inr ⟨p, rest, h1, hp', hq, ht, h⟩))
        · next ht => cases h; exact .inr (.inr (.inl ⟨h1, hp', rfl, .inr ⟨p, rest, hq, by simpa using ht⟩⟩))

end Sys2Proof.Machine
end

