-- ==== Sys2Proof/Laws/PerInstr.lean ====
section
/-! SUPPORT. The per-instruction family FixedBits: the coded form of an instruction carries the fixed bits (mask and match)
that its row of spec/opcode_table.json gives it; the three internal primitives have no encoding there (R60). -/

namespace Sys2Proof.Laws.FixedBits

open Sys2Proof

/-- The levels of the coded form the opcode table numbers: `cmd_op`, or the wire byte. -/
def tableWord : PortInput → Nat
  | .command p => p.op.toNat
  | .txStart b => b.toNat
  | .romPort _ => 0
  | .addrPort _ => 0

/-- Mask and match of the instruction's row. -/
def maskMatch : Instr → Option (Nat × Nat)
  | .addrFrame _ => some (0xF8, 0xA0)
  | .rowFrame _ => some (0xE0, 0x00)
  | .ctrlFrame _ => some (0xF8, 0xE0)
  | .init => some (0x7, 0x0)
  | .renderChar _ _ => some (0x7, 0x1)
  | .renderText _ _ => some (0x7, 0x2)
  | .setBrightness _ => some (0x7, 0x3)
  | .clear => some (0x7, 0x4)
  | .reserved101 => some (0x7, 0x5)
  | .reserved110 => some (0x7, 0x6)
  | .reserved111 => some (0x7, 0x7)
  | .lookup _ => none
  | .send _ => none
  | .addrEncode _ => none

def Statement (i : Instr) : Prop := ∀ m v, maskMatch i = some (m, v) → tableWord (encode i) &&& m = v

theorem addrFrame (digit : BitVec 3) : Statement (.addrFrame digit) := by
  intro m v h; cases h; revert digit; decide
theorem rowFrame (dots : BitVec 5) : Statement (.rowFrame dots) := by
  intro m v h; cases h; revert dots; decide
theorem ctrlFrame (level : BitVec 3) : Statement (.ctrlFrame level) := by
  intro m v h; cases h; revert level; decide
theorem init : Statement .init := by intro m v h; cases h; rfl
theorem renderChar (ch pos : Byte) : Statement (.renderChar ch pos) := by intro m v h; cases h; show 1 &&& 7 = 1; rfl
theorem renderText (text : List Byte) (start : Byte) : Statement (.renderText text start) := by intro m v h; cases h; show 2 &&& 7 = 2; rfl
theorem setBrightness (level : Byte) : Statement (.setBrightness level) := by intro m v h; cases h; show 3 &&& 7 = 3; rfl
theorem clear : Statement .clear := by intro m v h; cases h; rfl
theorem reserved101 : Statement .reserved101 := by intro m v h; cases h; rfl
theorem reserved110 : Statement .reserved110 := by intro m v h; cases h; rfl
theorem reserved111 : Statement .reserved111 := by intro m v h; cases h; rfl
theorem lookup (ch : Byte) : Statement (.lookup ch) := by intro m v h; cases h
theorem send (byte : Byte) : Statement (.send byte) := by intro m v h; cases h
theorem addrEncode (pos : Byte) : Statement (.addrEncode pos) := by intro m v h; cases h

end Sys2Proof.Laws.FixedBits
end

