-- ==== Sys2Proof/Tests/Slice0.lean ====
section
/-! SUPPORT. Tests whose expected results are the words, tables and vectors of spec/ (named at each), and for every statement
with hypotheses a theorem that shows states and operands meeting them. -/

namespace Sys2Proof.Tests

open Sys2Proof Sys2Proof.Machine

/-! ## Well-formedness: an ill-formed term for each of the three checks -/

theorem test_wf_send_addr_refused : (Instr.send 0xA3).wellFormed = false := by decide
theorem test_wf_send_row_refused : (Instr.send 0x1F).wellFormed = false := by decide
theorem test_wf_send_ctrl_refused : (Instr.send 0xE7).wellFormed = false := by decide
theorem test_wf_send_other : (Instr.send 0xFF).wellFormed = true ∧ (Instr.send 0x20).wellFormed = true ∧
    (Instr.send 0xA8).wellFormed = true ∧ (Instr.send 0xE8).wellFormed = true := by decide

/-! ## Decoding: words written out from R53 to R55, R59, R68 -/

theorem test_decode_addrFrame : decodeTableWord 8 0b10100011 = some (.addrFrame 3) := by decide
theorem test_decode_rowFrame : decodeTableWord 8 0b00011111 = some (.rowFrame 0b11111) := by decide
theorem test_decode_ctrlFrame : decodeTableWord 8 0b11100111 = some (.ctrlFrame 7) := by decide
theorem test_decode_init : decodeTableWord 8 0b000 = some .init := by decide
theorem test_decode_renderChar : decode (.command ⟨0b001, 0x41, 0x02, 0, []⟩) = .renderChar 0x41 2 := by decide
theorem test_decode_renderText : decode (.command ⟨0b010, 0, 6, 0, [0x41, 0x7E, 0x41]⟩) = .renderText [0x41, 0x7E, 0x41] 6 := by decide
theorem test_decode_setBrightness : decode (.command ⟨0b011, 0, 0, 0x0F, []⟩) = .setBrightness 15 := by decide
theorem test_decode_clear : decodeTableWord 8 0b100 = some .clear := by decide
theorem test_decode_reserved101 : decodeTableWord 8 0b101 = some .reserved101 := by decide
theorem test_decode_reserved110 : decodeTableWord 8 0b110 = some .reserved110 := by decide
theorem test_decode_reserved111 : decodeTableWord 8 0b111 = some .reserved111 := by decide
theorem test_decode_lookup : decode (.romPort 0x41) = .lookup 0x41 := by decide
theorem test_decode_send : decode (.txStart 0x55) = .send 0x55 := by decide
theorem test_decode_addrEncode : decode (.addrPort 8) = .addrEncode 8 := by decide
/-- R66: the bytes the block never sends, at the edges of the three formats. -/
theorem test_decode_never_sent : [0x20, 0x9F, 0xA8, 0xDF, 0xE8, 0xFF].map (decodeTableWord 8) = List.replicate 6 none := by decide

/-- R56, R59: the words at both ends of each range that is read, and a word wider than a byte. -/
theorem test_decode_edges : [0x07, 0x08, 0x1F, 0xA0, 0xA7, 0xE0, 0xE7].map (decodeTableWord 8) =
    [some .reserved111, some (.rowFrame 8), some (.rowFrame 31), some (.addrFrame 0), some (.addrFrame 7),
     some (.ctrlFrame 0), some (.ctrlFrame 7)] ∧ decodeWord 16 0x100 = .error .tooWide := ⟨by decide, rfl⟩

/-! ## Operands and frames -/

/-- V1: the first index read. -/
theorem test_romIndex : [0x00, 0x1F, 0x20, 0x21, 0x41, 0x48, 0x7A, 0x7B, 0x7C, 0x7F, 0xFF].map (fun c : Byte => (romIndex c 0).val)
    = [0, 0, 0, 7, 231, 280, 630, 637, 0, 0, 0] := by decide
/-- V3. -/
theorem test_lookup_A : lookup 0x41 = [0x20, 0x50, 0x88, 0xF8, 0x88, 0x88, 0x88] := by decide
theorem test_lookup_substituted : lookup 0x7C = [0, 0, 0, 0, 0, 0, 0] := by decide
/-- V14, V15. -/
theorem test_addrEncode : [0, 2, 7, 8, 9, 15, 255].map addrEncode = [0xA0, 0xA2, 0xA7, 0xA0, 0xA0, 0xA0, 0xA0] := by decide
/-- V26, V27. -/
theorem test_brightness : [0, 7, 8, 9, 15, 254, 255].map brightnessByte = [0xE0, 0xE7, 0xE0, 0xE1, 0xE7, 0xE6, 0xE7] := by decide
/-- V18, V21. -/
theorem test_glyphFrames : glyphFrames 0x41 2 = [0xA2, 0x04, 0x0A, 0x11, 0x1F, 0x11, 0x11, 0x11] ∧
    glyphFrames 0xFF 0xFF = [0xA0, 0, 0, 0, 0, 0, 0, 0] := by decide
/-- V25: from position 254 the counter goes to 255 and then to 0. -/
theorem test_textRenders : textRenders [1, 2, 3] 254 = [(1, 254), (2, 255), (3, 0)] := by decide
/-- V8: DATA is 1, 1, 0, 0, 0, 1, 0, 1 at the events 1, 4, ..., 22 of SEND 0xA3. -/
theorem test_frameEvent : [0, 1, 2, 3, 4, 7, 10, 13, 16, 19, 22, 24, 25, 26].map (frameEvent 0xA3) =
    [some ⟨.load, false⟩, some ⟨.data, true⟩, some ⟨.clock, true⟩, some ⟨.clock, false⟩, some ⟨.data, true⟩,
     some ⟨.data, false⟩, some ⟨.data, false⟩, some ⟨.data, false⟩, some ⟨.data, true⟩, some ⟨.data, false⟩,
     some ⟨.data, true⟩, some ⟨.clock, false⟩, some ⟨.load, true⟩, none] := by decide
/-- V13. -/
theorem test_listener : heardFrom ⟨true, false, false, true⟩ (sendEvents 0xA3 ++ initEvents) = [.byte 0xA3, .resetPulse] := by decide
/-- R34: the highest address formed, in 10 bits. -/
theorem test_romAddr : romAddr 0x7B 6 = 0b1010000011 := by decide
/-- R46: after a frame of no pulse the next byte is undefined too; after a RESET pulse bytes are latched again. -/
theorem test_listener_recovers : heardFrom ⟨true, false, false, true⟩
    ([⟨.load, false⟩, ⟨.load, true⟩] ++ sendEvents 0xA3 ++ initEvents ++ sendEvents 0xA3)
    = [.broken, .broken, .resetPulse, .byte 0xA3] := by decide
/-- R46: a frame of no pulse has no defined byte. -/
theorem test_listener_broken : heardFrom ⟨true, false, false, true⟩ [⟨.load, false⟩, ⟨.load, true⟩] = [.broken] := by decide
/-- V12: DATA changes of 0x55 from DATA 0 and from DATA 1. -/
theorem test_levelChanges : levelChanges .data ⟨true, false, false, true⟩ (sendEvents 0x55) = 8 ∧
    levelChanges .data ⟨true, true, false, true⟩ (sendEvents 0x55) = 7 := by decide
theorem test_target : target 0xA3 = some (.addressRegister 3) ∧ target 0x1F = some (.digitRam 31) ∧
    target 0xE3 = some (.control 3) ∧ target 0xC0 = none := by decide

/-! ## One step, on small states -/

/-- R143: the state after the INIT sequence. -/
def ready : State := { State.reset with initialized := true, busy := false, phase := .idle, trace := initEvents }

/-- A frame of byte `b` before event `e`. -/
def running (b : Byte) (e : Nat) (ls : Lines) : State := { ready.startFrame b with ev := e, lines := ls }

/-- The next state of a step, where it has one. -/
def after (o : Host.Outcome State Fault Refusal) : Option State :=
  match o with
  | .next s => some s
  | _ => none

/-- V29: the first two INIT events, and the third with what it sets. -/
theorem test_init_first : (after (step State.reset)).map (fun t => (t.trace, t.ev)) = some ([⟨.load, true⟩], 1) := by decide
theorem test_init_last : (after (step { State.reset with ev := 2 })).map (fun t => (t.lines.reset, t.initialized, t.busy, t.phase))
    = some (true, true, false, .idle) := by decide
/-- V31: accepting SET_BRIGHTNESS 7. -/
theorem test_setBrightness : (after (exec (.setBrightness 7) ready)).map (fun t => (t.curByte, t.kind, t.phase, t.busy, t.trace))
    = some (0xE7, .ctrl, .run, true, initEvents) := by decide
/-- V31, steps 1 and 26. -/
theorem test_step_opens : (after (step (running 0xE7 0 ⟨true, false, false, true⟩))).map (fun t => (t.lines, t.ev))
    = some (⟨false, false, false, true⟩, 1) := by decide
theorem test_step_closes : (after (step (running 0xE7 25 ⟨false, true, false, true⟩))).map (fun t => (t.lines, t.ev, t.phase, t.busy))
    = some (⟨true, true, false, true⟩, 0, .idle, false) := by decide
/-- V32, after step 104: row 3 of 'A'. -/
theorem test_row : (after (step { ready.startGlyphs 0x41 2 [] with ev := 25, frame := 3 })).map (fun t => (t.frame, t.curByte))
    = some (4, 0x1F) := by decide
/-- V24: after the render at position 7, position 8 is clamped. -/
theorem test_next_render : (after (step { ready.startGlyphs 0x7E 7 [(0x41, 8)] with ev := 25, frame := 7 })).map
    (fun t => (t.curCh, t.curPos, t.curByte, t.frame, t.glyphsLeft)) = some (0x41, 8, 0xA0, 0, 0) := by decide
theorem test_renderChar : (after (exec (.renderChar 0xFF 0xFF) ready)).map (fun t => (t.curCh, t.curPos, t.curByte, t.op))
    = some (0xFF, 0xFF, 0xA0, 1) := by decide
/-- V24. -/
theorem test_renderText : (after (exec (.renderText [0x41, 0x7E, 0x41] 6) ready)).map (fun t => (t.curByte, t.todo, t.glyphsLeft))
    = some (0xA6, [(0x7E, 7), (0x41, 8)], 2) := by decide
/-- V23. -/
theorem test_renderText_empty : exec (.renderText [] 9) ready = .next ready := by rfl
theorem test_clear : (after (exec .clear ready)).map (fun t => (t.curCh, t.curByte, t.glyphsLeft)) = some (0x20, 0xA0, 7) := by decide
theorem test_init_command : (after (exec .init ready)).map (fun t => (t.phase, t.ev, t.initialized, t.busy)) = some (.init, 0, true, true) := by decide
/-- V33. -/
theorem test_reserved : step { ready with pending := [.command (barePins 0b110)] } = .next ready := by rfl
theorem test_busy_waits : (after (step { running 0xE7 0 ⟨true, false, false, true⟩ with pending := [encode .clear] })).map (·.pending)
    = some [encode .clear] := by decide
/-- R160: reset in the middle of a frame. -/
theorem test_hardware_reset : (after (step { running 0xE7 5 ⟨false, true, true, true⟩ with rstN := false })).map
    (fun t => (t.lines, t.phase, t.trace, t.earlier)) = some (⟨true, false, false, true⟩, .init, [], initEvents) := by decide
theorem test_lookup_exec : (after (exec (.lookup 0x41) ready)).map (·.answer) = some [0x20, 0x50, 0x88, 0xF8, 0x88, 0x88, 0x88] := by decide
theorem test_addrEncode_exec : (after (exec (.addrEncode 9) ready)).map (·.answer) = some [0xA0] := by decide
theorem test_send_exec : (after (exec (.send 0x55) ready)).map (fun t => (t.curByte, t.phase)) = some (0x55, .run) := by decide
theorem test_addrFrame_exec : (after (exec (.addrFrame 5) ready)).map (·.curByte) = some 0xA5 := by decide
theorem test_rowFrame_exec : (after (exec (.rowFrame 0b10001) ready)).map (·.curByte) = some 0x11 := by decide
theorem test_ctrlFrame_exec : (after (exec (.ctrlFrame 3) ready)).map (·.curByte) = some 0xE3 := by decide
theorem test_withFetchWord : (after (step (State.reset.withFetchWord 8 4))).map (fun t => (t.op, t.phase, t.curByte))
    = some (4, .run, 0xA0) := by decide
theorem test_position_out_of_range : step (running 0 26 ⟨true, false, false, true⟩) = .fault .sequencerPosition := by rfl

/-! ## Witnesses: for every statement with hypotheses, states and operands that meet them -/

theorem ready_inv : MachineInv ready := by constructor <;> decide
theorem ready_accepts : ready.accepts = true ∧ ready.rstN = true := by decide

/-- A frame of 'A' with its row byte in progress, as RENDER_CHAR reaches it. -/
def glyphing : State := { ready.startGlyphs 0x41 255 [(0x42, 0)] with ev := 25, frame := 7, lines := ⟨false, false, false, true⟩ }

theorem witness_DecodeEncodeAgree : (Instr.send 0xFF).wellFormed = true ∧ (Instr.renderText [0, 255] 255).wellFormed = true := by decide
theorem witness_TableWordsRead : 0 < 8 ∧ 7 < 8 ∧ (8 ≤ 8 ∧ 0x1F ≤ 0x1F) ∧ (0xA0 ≤ 0xA0 ∧ 0xA7 ≤ 0xA7) ∧ (0xE0 ≤ 0xE0 ∧ 0xE7 ≤ 0xE7) ∧
    (∃ n w : Nat, (0x20 ≤ w ∧ w ≤ 0x9F ∨ 0xA8 ≤ w ∧ w ≤ 0xDF ∨ 0xE8 ≤ w ∧ w ≤ 0xFF) ∧ n ≤ 8) ∧
    (∃ n w : Nat, 8 ≤ w ∧ 8 < n) ∧ (∃ w : Nat, 8 ≤ w ∧ 0xFF < w) :=
  ⟨by decide, by decide, by decide, by decide, by decide, ⟨8, 0xFF, by decide⟩, ⟨9, 8, by decide⟩, ⟨0x100, by decide⟩⟩
theorem witness_UnreadOperandsIgnored : ∃ p q : CmdPins, p ≠ q ∧ p.op = q.op ∧ (p.op = 0b001 → p.ch = q.ch ∧ p.pos = q.pos) ∧
    (p.op = 0b010 → p.text = q.text ∧ p.pos = q.pos) ∧ (p.op = 0b011 → p.level = q.level) :=
  ⟨⟨0b001, 0x41, 2, 3, []⟩, ⟨0b001, 0x41, 2, 4, [1]⟩, by decide, by decide, by decide, by decide, by decide⟩
theorem witness_GlyphsDistinctSpaceBlank : (0 : Fin 92) ≠ 91 := by decide
theorem witness_SubstitutionPolicy : (0x20 ≤ (0x20 : Byte).toNat ∧ (0x7B : Byte).toNat ≤ 0x7B) ∧ (0x1F : Byte).toNat < 0x20 ∧
    0x7B < (0x7C : Byte).toNat := by decide
theorem witness_AddrEncodeTable : (7 : Byte).toNat ≤ 7 ∧ 7 < (8 : Byte).toNat := by decide
theorem witness_OutOfRangeIsSpace : (0x1F : Byte).toNat < 0x20 ∧ 0x7B < (0x7C : Byte).toNat := by decide
theorem witness_PassedGlyphsDiffer : 0x20 ≤ (0x20 : Byte).toNat ∧ (0x7B : Byte).toNat ≤ 0x7B ∧ 0x20 ≤ (0x41 : Byte).toNat ∧
    (0x41 : Byte).toNat ≤ 0x7B ∧ glyphFrames 0x41 8 = glyphFrames 0x41 0 := by decide
theorem witness_SendCompletes : ready.phase = .idle ∧ ready.rstN = true := by decide
theorem witness_FormattedFramesComplete : ready.phase = .idle ∧ ready.rstN = true ∧
    (∃ d : BitVec 3, Instr.addrFrame 7 = .addrFrame d ∧ (0xA7 : Byte) = BitVec.ofNat 8 (0xA0 + d.toNat)) ∧
    (∃ p : BitVec 5, Instr.rowFrame 31 = .rowFrame p ∧ (0x1F : Byte) = BitVec.ofNat 8 p.toNat) ∧
    (∃ v : BitVec 3, Instr.ctrlFrame 7 = .ctrlFrame v ∧ (0xE7 : Byte) = BitVec.ofNat 8 (0xE0 + v.toNat)) :=
  ⟨by decide, by decide, ⟨7, by decide⟩, ⟨31, by decide⟩, ⟨7, by decide⟩⟩
theorem witness_StartWaitsWhileBusy : glyphing.phase ≠ .idle := by decide
theorem witness_InitCompletes : ready.accepts = true ∧ ready.rstN = true := ready_accepts
theorem witness_RenderCharCompletes : ready.accepts = true ∧ ready.rstN = true := ready_accepts
theorem witness_RenderTextCompletes : ready.accepts = true ∧ ready.rstN = true ∧ ([] : List Byte) = [] ∧ [0x41] ≠ ([] : List Byte) :=
  ⟨ready_accepts.1, ready_accepts.2, rfl, by decide⟩
theorem witness_SetBrightnessCompletes : ready.accepts = true ∧ ready.rstN = true := ready_accepts
theorem witness_ClearCompletes : ready.accepts = true ∧ ready.rstN = true := ready_accepts
theorem witness_ReservedCodesConsumed : ∃ (s : State) (p : CmdPins) (rest : List PortInput), s.accepts = true ∧ s.rstN = true ∧
    5 ≤ p.op.toNat ∧ s.pending = .command p :: rest :=
  ⟨{ ready with pending := [.command (barePins 0b101), encode .clear] }, barePins 0b101, [encode .clear], by decide, by decide,
   by decide, rfl⟩
theorem witness_CommandsWaitWhileBusy : glyphing.accepts = false ∧ glyphing.phase ≠ .idle ∧ ∃ t, step glyphing = .next t :=
  ⟨by decide, by decide, _, rfl⟩
theorem witness_ClearIsEightSpaces : ∃ t u, exec .clear ready = .next t ∧
    exec (.renderText (List.replicate 8 0x20) 0) ready = .next u := ⟨_, _, rfl, rfl⟩
theorem witness_RenderCharIsOneText : ∃ t u, exec (.renderChar 0x41 9) ready = .next t ∧
    exec (.renderText [0x41] 9) ready = .next u := ⟨_, _, rfl, rfl⟩
theorem witness_AcceptTransitions : ready.accepts = true := ready_accepts.1
theorem witness_SequencerTransitions :
    (State.reset.rstN = true ∧ State.reset.phase = .init ∧ State.reset.ev < 2) ∧
    (∃ s : State, s.rstN = true ∧ s.phase = .init ∧ s.ev = 2) ∧
    (∃ s : State, s.rstN = true ∧ s.phase = .run ∧ s.ev < 25) ∧
    (∃ s : State, s.rstN = true ∧ s.phase = .run ∧ s.ev = 25 ∧ s.kind = .glyph ∧ s.frame < 7) ∧
    (glyphing.rstN = true ∧ glyphing.phase = .run ∧ glyphing.ev = 25 ∧ ¬ (glyphing.kind = .glyph ∧ glyphing.frame < 7) ∧
      glyphing.todo = [(0x42, 0)]) ∧
    (∃ s : State, s.rstN = true ∧ s.phase = .run ∧ s.ev = 25 ∧ ¬ (s.kind = .glyph ∧ s.frame < 7) ∧ s.todo = []) :=
  ⟨by decide, ⟨{ State.reset with ev := 2 }, by decide⟩, ⟨{ glyphing with ev := 24 }, by decide⟩,
   ⟨{ glyphing with frame := 6 }, by decide⟩, by decide, ⟨running 0xE7 25 ⟨false, true, false, true⟩, by decide⟩⟩
theorem witness_StepRunsDecoded : ∃ (s : State) (p : PortInput) (rest : List PortInput), s.rstN = true ∧ s.phase = .idle ∧
    s.pending = p :: rest ∧ s.takes p = true := ⟨ready.present (encode .clear), encode .clear, [], by decide, by decide, rfl, by decide⟩
theorem witness_StepWaitsWhenIdle : ready.rstN = true ∧ ready.phase = .idle ∧ ready.pending = [] := by decide
theorem witness_StepPerformsOneEvent : glyphing.rstN = true ∧ glyphing.phase ≠ .idle ∧ ∃ t, step glyphing = .next t :=
  ⟨by decide, by decide, _, rfl⟩
theorem witness_EventsNeverLost : ∃ t, step { glyphing with rstN := false } = .next t := ⟨_, rfl⟩
theorem witness_HardwareResetTakesOver : { glyphing with rstN := false }.rstN = false := rfl
theorem witness_InitializedChanges : ∃ s t : State, step s = .next t ∧ s.initialized = false ∧ t.initialized = true :=
  ⟨{ State.reset with ev := 2 }, _, rfl, rfl, rfl⟩
theorem witness_InitializedChanges_reset : ∃ s t : State, step s = .next t ∧ s.initialized = true ∧ t.initialized = false :=
  ⟨{ ready with rstN := false }, _, rfl, rfl, rfl⟩
theorem glyphing_step : ∃ t, step glyphing = .next t := ⟨_, rfl⟩
theorem witness_ResetLineOnlyByInit : glyphing.rstN = true ∧ glyphing.phase ≠ .init ∧ ∃ t, step glyphing = .next t :=
  ⟨by decide, by decide, glyphing_step⟩
/-- A state inside a frame that meets the invariant: SEND 0xA3 after its rising edge of bit 0. -/
def inFrame : State := { running 0xA3 3 ⟨false, true, true, true⟩ with
  trace := initEvents ++ [⟨.load, false⟩, ⟨.data, true⟩, ⟨.clock, true⟩] }
theorem inFrame_inv : MachineInv inFrame := by constructor <;> decide
theorem witness_ResetLineOnlyByInit_run : MachineInv inFrame ∧ inFrame.phase = .run := ⟨inFrame_inv, rfl⟩
theorem witness_StepKeepsInv : MachineInv inFrame ∧ ∃ t, step inFrame = .next t := ⟨inFrame_inv, _, rfl⟩
theorem witness_StepNeverStops : MachineInv inFrame := inFrame_inv
theorem witness_IdleLevels : MachineInv ready ∧ ready.phase = .idle := ⟨ready_inv, rfl⟩
theorem witness_EdgeContractKept : MachineInv inFrame ∧ edgeContract Config.lineReset inFrame.trace = true ∧
    ∃ t, step inFrame = .next t := ⟨inFrame_inv, by decide, _, rfl⟩
theorem witness_WireBytesKept : hostOnly glyphing ∧ wireSafe glyphing ∧ ∃ t, step glyphing = .next t :=
  ⟨(fun _ h => nomatch h), (fun _ => by decide), glyphing_step⟩
theorem witness_PositionsStepKept : positionsStep glyphing ∧ (∃ t, step glyphing = .next t) ∧ glyphing.rstN = true ∧
    glyphing.kind = .glyph ∧ glyphing.phase = .run ∧ glyphing.ev = 25 ∧ 7 ≤ glyphing.frame ∧ glyphing.todo ≠ [] :=
  ⟨fun _ _ => ⟨by decide, trivial⟩, glyphing_step, by decide⟩
theorem witness_PositionsStepKept_same : ∃ s t : State, positionsStep s ∧ step s = .next t ∧ s.rstN = true ∧ s.kind = .glyph ∧
    s.phase = .run ∧ s.ev = 25 ∧ s.frame = 6 :=
  ⟨{ glyphing with frame := 6 }, _, (fun _ _ => ⟨by decide, trivial⟩), rfl, by decide⟩
theorem witness_DeadRegistersUnread : ∃ s s' t : State, s ≠ s' ∧ SameButDead s s' ∧ step s = .next t :=
  ⟨glyphing, { glyphing with op := 7, curPos := 9 }, _, by decide, by constructor <;> simp, rfl⟩
theorem witness_CommandsAreHeard : MachineInv ready ∧ ready.accepts = true ∧ ready.rstN = true :=
  ⟨ready_inv, ready_accepts.1, ready_accepts.2⟩
/-- A listener in the middle of a frame, with seven samples, then out of sync. -/
def sevenBits : Listener := { Listener.start ⟨false, false, false, true⟩ true with samples := List.replicate 7 true }
theorem witness_BrokenFrameNeedsReset : (sevenBits.lines.load = false ∧ sevenBits.samples.length ≠ 8) ∧
    (∃ (d : Listener) (es : List LineEvent), d.inSync = false ∧ ⟨.reset, true⟩ ∉ es ∧ es ≠ []) ∧
    (∃ d : Listener, d.inSync = false ∧ d.lines.clock = false) :=
  ⟨by decide, ⟨sevenBits.hear ⟨.load, true⟩, sendEvents 0xA3, by decide⟩, ⟨sevenBits.hear ⟨.load, true⟩, by decide⟩⟩

end Sys2Proof.Tests
end

/-! ## The invariant of the machine (O41)

The positions with `ev = 0` (waiting, or before the first event of INIT or of a frame) all call for the same levels, so every
step that ends at such a position goes through `AtBoundary`. Inside INIT and inside a frame the levels after an event are those
of the next position: `initEvent_levels` and `frameEvent_levels`. -/

namespace Sys2Proof.Machine

open Sys2Proof

/-! ### What an instruction can do -/

/-- Every effect an instruction can have. -/
inductive ExecEffect (s : State) : State → Prop
  | unchanged : ExecEffect s s
  | answered (bytes : List Byte) : ExecEffect s { s with answer := bytes }
  | initAccepted (ha : s.accepts = true) (op : BitVec 3) : ExecEffect s (State.startInit { s with op := op })
  | frameAccepted (ha : s.accepts = true) (op : BitVec 3) (b : Byte) : ExecEffect s (State.startFrame { s with op := op } b)
  | glyphsAccepted (ha : s.accepts = true) (op : BitVec 3) (ch : CharCode) (pos : Position) (todo : List (CharCode × Position)) :
      ExecEffect s (State.startGlyphs { s with op := op } ch pos todo)
  | frameStarted (hp : s.phase = .idle) (b : Byte) : ExecEffect s (s.startFrame b)

theorem accept_effect {s t : State} {op : BitVec 3} {f : State → State} (h : accept s op f = .next t)
    (hf : s.accepts = true → ExecEffect s (f { s with op := op })) : ExecEffect s t := by
  obtain ⟨ha, hacc⟩ | ⟨-, hrej⟩ := accept_cases s op f
  · cases hacc.symm.trans h
    exact hf ha
  · cases hrej.symm.trans h
    exact .unchanged

theorem startTx_effect {s t : State} {b : Byte} (h : startTx s b = .next t) : ExecEffect s t := by
  obtain ⟨hp, htaken⟩ | ⟨-, hrej⟩ := startTx_cases s b
  · cases htaken.symm.trans h
    exact .frameStarted hp b
  · cases hrej.symm.trans h
    exact .unchanged

theorem exec_effect {i : Instr} {s t : State} (h : exec i s = .next t) : ExecEffect s t := by
  cases i with
  | addrFrame | rowFrame | ctrlFrame | send => exact startTx_effect h
  | init => exact accept_effect h (.initAccepted · _)
  | renderChar =>
    unfold exec execRenderChar at h
    exact accept_effect h (.glyphsAccepted · _ _ _ _)
  | renderText text =>
    cases text with
    | nil => cases h; exact .unchanged
    | cons =>
      unfold exec execRenderText at h
      exact accept_effect h (.glyphsAccepted · _ _ _ _)
  | setBrightness =>
    unfold exec execSetBrightness at h
    exact accept_effect h (.frameAccepted · _ _)
  | clear =>
    unfold exec execClear at h
    exact accept_effect h (.glyphsAccepted · _ _ _ _)
  | reserved101 | reserved110 | reserved111 => cases h; exact .unchanged
  | lookup | addrEncode => cases h; exact .answered _

/-! ### The levels around one line event -/

/-- The events of INIT by their index (R103). -/
theorem initEvents_cases {k : Nat} {e : LineEvent} (h : initEvents[k]? = some e) :
    (k = 0 ∧ e = ⟨.load, true⟩) ∨ (k = 1 ∧ e = ⟨.reset, false⟩) ∨ (k = 2 ∧ e = ⟨.reset, true⟩) := by
  match k with
  | 0 | 1 | 2 => simpa [initEvents, eq_comm] using h
  | _ + 3 => simp [initEvents] at h

/-- INIT holds LOAD high and leaves CLOCK; RESET is low after the event with index 1 only (R103). -/
theorem initEvent_levels {k : Nat} {e : LineEvent} {ls : Lines} (h : initEvents[k]? = some e)
    (hload : ls.load = true) (hreset : ls.reset = (k != 2)) :
    (applyEvent ls e).load = true ∧ (applyEvent ls e).clock = ls.clock ∧ (applyEvent ls e).reset = (k != 1) := by
  obtain ⟨rfl, rfl⟩ | ⟨rfl, rfl⟩ | ⟨rfl, rfl⟩ := initEvents_cases h <;> simp [applyEvent, hload, hreset]

/-- The events of SEND by their index (R85). -/
theorem frameEvent_cases {b : Byte} {k : Nat} {e : LineEvent} (h : frameEvent b k = some e) :
    (k = 0 ∧ e = ⟨.load, false⟩) ∨ (k = 25 ∧ e = ⟨.load, true⟩) ∨
    (k ≠ 0 ∧ k ≤ 24 ∧ k % 3 = 1 ∧ e = ⟨.data, b.getLsbD ((k - 1) / 3)⟩) ∨
    (k ≠ 0 ∧ k ≤ 24 ∧ k % 3 = 2 ∧ e = ⟨.clock, true⟩) ∨
    (k ≠ 0 ∧ k ≤ 24 ∧ k % 3 = 0 ∧ e = ⟨.clock, false⟩) := by
  unfold frameEvent at h
  split at h
  · next h0 => cases h; exact .inl ⟨h0, rfl⟩
  · next h0 =>
    split at h
    · next h25 => cases h; exact .inr (.inl ⟨h25, rfl⟩)
    · split at h
      · next h24 =>
        refine .inr (.inr ?_)
        split at h
        · cases h; exact .inl ⟨h0, h24, by omega, rfl⟩
        · split at h
          · cases h; exact .inr (.inl ⟨h0, h24, by omega, rfl⟩)
          · cases h; exact .inr (.inr ⟨h0, h24, by omega, rfl⟩)
      · cases h

/-- After the event with index `k` of a frame LOAD is high at its end only and CLOCK is high after the rising edges only
(R85, R88); RESET is left alone (R93). -/
theorem frameEvent_levels {b : Byte} {k : Nat} {e : LineEvent} {ls : Lines} (h : frameEvent b k = some e)
    (hload : ls.load = (k == 0)) (hclock : ls.clock = (k != 0 && k % 3 == 0)) :
    (applyEvent ls e).load = (k == 25) ∧ (applyEvent ls e).clock = (k % 3 == 2) ∧ (applyEvent ls e).reset = ls.reset := by
  obtain ⟨rfl, rfl⟩ | ⟨rfl, rfl⟩ | ⟨h0, h24, hk, rfl⟩ | ⟨h0, h24, hk, rfl⟩ | ⟨h0, h24, hk, rfl⟩ := frameEvent_cases h
  · simp [applyEvent, hclock]
  · simp [applyEvent, hclock]
  all_goals
    have h25 : k ≠ 25 := by omega
    simp [applyEvent, hload, hclock, h0, h25, hk]

/-! ### Positions at which no event of the operation has been performed -/

/-- A position with `ev = 0`: `frame` is in range, the lines are the waveform of the trace and stand at the levels between
operations (R86). -/
structure AtBoundary (s : State) : Prop where
  waveform : s.lines = levelsAfter Config.lineReset s.trace
  ev : s.ev = 0
  frame : s.frame ≤ Config.nRows
  load : s.lines.load = true
  clock : s.lines.clock = false
  reset : s.lines.reset = true

theorem AtBoundary.machineInv {s : State} (h : AtBoundary s) (hbusy : s.busy = (s.phase != .idle))
    (hstarted : s.initialized = true ∨ s.phase = .init) : MachineInv s where
  waveform := h.waveform
  busy := hbusy
  started := hstarted
  position := by cases hp : s.phase <;> simp [positionOk, hp, h.ev, h.frame]
  load := by cases hp : s.phase <;> simp [expectedLoad, hp, h.ev, h.load]
  clock := by cases hp : s.phase <;> simp [expectedClock, hp, h.ev, h.clock]
  reset := by cases hp : s.phase <;> simp [expectedReset, hp, h.ev, h.reset]

theorem MachineInv.frame_le {s : State} (h : MachineInv s) : s.frame ≤ Config.nRows := by
  have hpos := h.position
  simp only [positionOk, Bool.and_eq_true, decide_eq_true_eq] at hpos
  exact hpos.1

theorem MachineInv.initialized_of_ne_init {s : State} (h : MachineInv s) (hp : s.phase ≠ .init) : s.initialized = true :=
  h.started.resolve_right hp

/-- The levels the invariant gives in idle (R31, R86). -/
theorem MachineInv.atBoundary_of_idle {s : State} (h : MachineInv s) (hp : s.phase = .idle) : AtBoundary s where
  waveform := h.waveform
  ev := (by simpa [positionOk, hp] using h.position : _ ∧ s.ev = 0).2
  frame := h.frame_le
  load := by simpa [expectedLoad, hp] using h.load
  clock := by simpa [expectedClock, hp] using h.clock
  reset := by simpa [expectedReset, hp] using h.reset

/-- The levels the invariant gives before an event of INIT (R103). -/
theorem MachineInv.levels_of_init {s : State} (h : MachineInv s) (hp : s.phase = .init) :
    s.lines.load = true ∧ s.lines.clock = false ∧ s.lines.reset = (s.ev != 2) := by
  simpa [expectedLoad, expectedClock, expectedReset, hp] using And.intro h.load (And.intro h.clock h.reset)

/-- The levels the invariant gives before an event of a frame (R51, R88, R93). -/
theorem MachineInv.levels_of_run {s : State} (h : MachineInv s) (hp : s.phase = .run) :
    s.lines.load = (s.ev == 0) ∧ s.lines.clock = (s.ev != 0 && s.ev % 3 == 0) ∧ s.lines.reset = true := by
  simpa [expectedLoad, expectedClock, expectedReset, hp] using And.intro h.load (And.intro h.clock h.reset)

/-! ### Operations that start at a boundary -/

theorem AtBoundary.withOp {s : State} (h : AtBoundary s) (op : BitVec 3) : AtBoundary { s with op := op } :=
  ⟨h.waveform, h.ev, h.frame, h.load, h.clock, h.reset⟩

theorem AtBoundary.startInit {s : State} (h : AtBoundary s) : AtBoundary s.startInit :=
  ⟨h.waveform, rfl, h.frame, h.load, h.clock, h.reset⟩

theorem AtBoundary.startFrame {s : State} (h : AtBoundary s) (b : Byte) : AtBoundary (s.startFrame b) :=
  ⟨h.waveform, rfl, Nat.zero_le _, h.load, h.clock, h.reset⟩

theorem AtBoundary.startGlyphs {s : State} (h : AtBoundary s) (ch : CharCode) (pos : Position)
    (todo : List (CharCode × Position)) : AtBoundary (s.startGlyphs ch pos todo) :=
  ⟨h.waveform, rfl, Nat.zero_le _, h.load, h.clock, h.reset⟩

theorem atBoundary_hardwareReset (s : State) : AtBoundary s.hardwareReset :=
  ⟨rfl, rfl, Nat.zero_le _, rfl, rfl, rfl⟩

theorem phase_idle_of_accepts {s : State} (ha : s.accepts = true) : s.phase = .idle := ((accepts_iff s).1 ha).1

theorem MachineInv.withPending {s : State} (h : MachineInv s) (pending : List PortInput) :
    MachineInv { s with pending := pending } :=
  ⟨h.waveform, h.busy, h.started, h.position, h.load, h.clock, h.reset⟩

theorem MachineInv.withAnswer {s : State} (h : MachineInv s) (bytes : List Byte) : MachineInv { s with answer := bytes } :=
  ⟨h.waveform, h.busy, h.started, h.position, h.load, h.clock, h.reset⟩

theorem ExecEffect.machineInv {s t : State} (h : ExecEffect s t) (hinv : MachineInv s) : MachineInv t := by
  have hbound (hp : s.phase = .idle) : AtBoundary s := hinv.atBoundary_of_idle hp
  have hinit (hp : s.phase = .idle) : s.initialized = true := hinv.initialized_of_ne_init (by simp [hp])
  cases h with
  | unchanged => exact hinv
  | answered bytes => exact hinv.withAnswer bytes
  | initAccepted ha op =>
    exact ((hbound (phase_idle_of_accepts ha)).withOp op).startInit.machineInv rfl (.inr rfl)
  | frameAccepted ha op b =>
    have hp := phase_idle_of_accepts ha
    exact (((hbound hp).withOp op).startFrame b).machineInv rfl (.inl (hinit hp))
  | glyphsAccepted ha op ch pos todo =>
    have hp := phase_idle_of_accepts ha
    exact (((hbound hp).withOp op).startGlyphs ch pos todo).machineInv rfl (.inl (hinit hp))
  | frameStarted hp b => exact ((hbound hp).startFrame b).machineInv rfl (.inl (hinit hp))

/-! ### The events of an operation in progress -/

/-- Every event keeps the line registers the waveform of the trace (R10, R11). -/
theorem MachineInv.waveform_perform {s : State} (h : MachineInv s) (e : LineEvent) :
    (s.perform e).lines = levelsAfter Config.lineReset (s.perform e).trace := by
  rw [State.perform_lines, State.perform_trace, levelsAfter_snoc, ← h.waveform]

theorem MachineInv.advance_init {s : State} {e : LineEvent} (h : MachineInv s) (hp : s.phase = .init)
    (he : initEvents[s.ev]? = some e) (hev : s.ev ≠ 2) : MachineInv { s.perform e with ev := s.ev + 1 } := by
  obtain ⟨hl, hc, hr⟩ := h.levels_of_init hp
  obtain ⟨hload, hclock, hreset⟩ := initEvent_levels he hl hr
  have hle : s.ev + 1 ≤ 2 := by have := initEvents_cases he; omega
  exact {
    waveform := h.waveform_perform e
    busy := h.busy
    started := h.started
    position := by simp [positionOk, hp, h.frame_le, hle]
    load := by simpa [expectedLoad, hp] using hload
    clock := by simpa [expectedClock, hp] using hclock.trans hc
    reset := by simpa [expectedReset, hp] using hreset }

theorem MachineInv.advance_run {s : State} {e : LineEvent} (h : MachineInv s) (hp : s.phase = .run)
    (he : frameEvent s.curByte s.ev = some e) (hev : s.ev < 25) : MachineInv { s.perform e with ev := s.ev + 1 } := by
  obtain ⟨hl, hc, hr⟩ := h.levels_of_run hp
  obtain ⟨hload, hclock, hreset⟩ := frameEvent_levels he hl hc
  have hle : s.ev + 1 ≤ 25 := hev
  have hmod : (s.ev % 3 == 2) = ((s.ev + 1) % 3 == 0) := by
    rw [Bool.eq_iff_iff, beq_iff_eq, beq_iff_eq]
    omega
  exact {
    waveform := h.waveform_perform e
    busy := h.busy
    started := h.started
    position := by simp [positionOk, hp, h.frame_le, hle]
    load := by simpa [expectedLoad, hp] using hload.trans (beq_false_of_ne hev.ne)
    clock := by simpa [expectedClock, hp] using hclock.trans hmod
    reset := by simpa [expectedReset, hp] using hreset.trans hr }

/-- The last event of INIT raises RESET (R103), and the block is idle and initialized (R19). -/
theorem MachineInv.finishInit {s : State} {e : LineEvent} (h : MachineInv s) (hp : s.phase = .init)
    (he : initEvents[s.ev]? = some e) (hev : s.ev = 2) : MachineInv (s.perform e).finishInit := by
  obtain ⟨hl, hc, hr⟩ := h.levels_of_init hp
  obtain ⟨hload, hclock, hreset⟩ := initEvent_levels he hl hr
  have hbound : AtBoundary (s.perform e).finishInit :=
    ⟨h.waveform_perform e, rfl, h.frame_le, hload, hclock.trans hc, by simpa [hev] using hreset⟩
  exact hbound.machineInv rfl (.inl rfl)

theorem closeFrame_frame_le {s : State} (h : s.frame ≤ Config.nRows) : s.closeFrame.frame ≤ Config.nRows := by
  obtain ⟨hlt, -, hs⟩ | ⟨-, c, p, rest, -, hs⟩ | ⟨-, -, hs⟩ := closeFrame_cases s
  · rw [hs]; exact hlt
  · rw [hs]; exact Nat.zero_le _
  · rw [hs]; exact h

/-- A frame that ends goes on to the next one, still busy, or leaves the block idle and not busy (R20, R117). -/
theorem closeFrame_busy {s : State} (h : s.busy = (s.phase != .idle)) : s.closeFrame.busy = (s.closeFrame.phase != .idle) := by
  obtain ⟨_, -, hs⟩ | ⟨-, c, p, rest, -, hs⟩ | ⟨-, -, hs⟩ := closeFrame_cases s
  · rw [hs]; exact h
  · rw [hs]; exact h
  · rw [hs]; rfl

/-- The last event of a frame raises LOAD, with CLOCK low (R86), whatever follows the frame. -/
theorem MachineInv.closeFrame {s : State} {e : LineEvent} (h : MachineInv s) (hp : s.phase = .run)
    (he : frameEvent s.curByte s.ev = some e) (hev : s.ev = 25) : MachineInv (s.perform e).closeFrame := by
  obtain ⟨hl, hc, hr⟩ := h.levels_of_run hp
  obtain ⟨hload, hclock, hreset⟩ := frameEvent_levels he hl hc
  have hbound : AtBoundary (s.perform e).closeFrame := {
    waveform := by simpa using h.waveform_perform e
    ev := by simp
    frame := closeFrame_frame_le h.frame_le
    load := by simpa [hev] using hload
    clock := by simpa [hev] using hclock
    reset := by simpa using hreset.trans hr }
  have hinit : s.initialized = true := h.initialized_of_ne_init (by simp [hp])
  exact hbound.machineInv (closeFrame_busy h.busy) (.inl (by simpa using hinit))

theorem MachineInv.sequence {s t : State} (h : MachineInv s) (hs : s.sequence = .next t) : MachineInv t := by
  obtain ⟨-, rfl⟩ | ⟨e, hp, he, hev, rfl⟩ | ⟨e, hp, he, hev, rfl⟩ | ⟨e, hp, he, hev, rfl⟩ | ⟨e, hp, he, hev, rfl⟩ :=
    sequence_cases hs
  · exact h
  · exact h.finishInit hp he hev
  · exact h.advance_init hp he hev
  · exact h.advance_run hp he hev
  · exact h.closeFrame hp he hev

/-- Settles O41, by the cases of one step: hardware reset, an event of the operation in progress, waiting, an input taken. -/
theorem stepKeepsInv : Obligations.StepKeepsInv := by
  intro s t h hstep
  obtain ⟨-, rfl⟩ | ⟨-, -, hs⟩ | ⟨-, -, rfl, -⟩ | ⟨p, rest, -, -, -, -, hexec⟩ := step_cases hstep
  · exact (atBoundary_hardwareReset s).machineInv rfl (.inr rfl)
  · exact h.sequence hs
  · exact h
  · exact (exec_effect hexec).machineInv (h.withPending rest)

end Sys2Proof.Machine

/-! ## The listener hears the frames sent (O48)

A frame is LOAD low, three events for each bit, LOAD high (R84). Before LOAD goes high the samples are the bits of the byte in
the order sent (`hearAll_bits`), and read with the first one as bit 0 they are the byte again (`byteOfSamples_byteBits`). -/

namespace Sys2Proof.Machine

open Sys2Proof

/-! ### A byte from its samples -/

/-- The bits of a byte in the order R84 sends them, bit 0 first. -/
def byteBits (b : Byte) : List Bool := (List.range Config.frameBits).map b.getLsbD

@[simp] theorem byteBits_length (b : Byte) : (byteBits b).length = Config.frameBits := by simp [byteBits]

theorem byteBits_getElem? (b : Byte) {i : Nat} (hi : i < 8) : (byteBits b)[i]? = some (b.getLsbD i) := by
  simp [byteBits, hi]

/-- One more sample at the front shifts the others up by one bit. -/
theorem byteOfSamples_cons_toNat (v : Bool) (vs : List Bool) :
    (byteOfSamples (v :: vs)).toNat = Nat.bit v (byteOfSamples vs).toNat % 2 ^ 8 := by
  cases v <;> simp [byteOfSamples, Nat.bit_val, Nat.add_comm]

/-- Sample `i` is bit `i` of the byte, and bits without a sample are 0 (R45). -/
theorem byteOfSamples_getLsbD (vs : List Bool) {i : Nat} (hi : i < 8) :
    (byteOfSamples vs).getLsbD i = vs[i]?.getD false := by
  induction vs generalizing i with
  | nil => simp [byteOfSamples]
  | cons v vs ih =>
    rw [BitVec.getLsbD, byteOfSamples_cons_toNat, Nat.testBit_mod_two_pow, decide_eq_true hi, Bool.true_and]
    cases i with
    | zero => simp
    | succ j =>
      rw [Nat.testBit_bit_succ, List.getElem?_cons_succ]
      exact ih (by omega)

theorem byteOfSamples_byteBits (b : Byte) : byteOfSamples (byteBits b) = b := by
  refine BitVec.eq_of_getLsbD_eq fun i hi => ?_
  rw [byteOfSamples_getLsbD _ hi, byteBits_getElem? b hi, Option.getD_some]

/-! ### What the events of a frame do to a listener -/

@[simp] theorem Listener.hearAll_nil (d : Listener) : d.hearAll [] = d := rfl

@[simp] theorem Listener.hearAll_cons (d : Listener) (e : LineEvent) (es : List LineEvent) :
    d.hearAll (e :: es) = (d.hear e).hearAll es := rfl

@[simp] theorem Listener.hearAll_append (d : Listener) (es es' : List LineEvent) :
    d.hearAll (es ++ es') = (d.hearAll es).hearAll es' := List.foldl_append

/-- A frame of 8 samples heard in sync is latched (R45). -/
theorem Listener.closeFrame_of_inSync {d : Listener} (hs : d.inSync = true) (hn : d.samples.length = Config.frameBits) :
    d.closeFrame = { d with heard := d.heard ++ [.byte (byteOfSamples d.samples)] } := if_pos ⟨hs, hn⟩

/-- LOAD going low opens a frame with no samples (R47). -/
theorem Listener.hear_load_low (d : Listener) :
    d.hear ⟨.load, false⟩ = { d with lines := { d.lines with load := false }, samples := [] } := rfl

/-- LOAD going high after LOAD low closes the frame (R45). -/
theorem Listener.hear_load_high {d : Listener} (hload : d.lines.load = false) :
    d.hear ⟨.load, true⟩ = Listener.closeFrame { d with lines := { d.lines with load := true } } := by
  simp [Listener.hear, applyEvent, hload]

/-- The three events of one bit of a frame (R84). -/
def bitEvents (v : Bool) : List LineEvent := [⟨.data, v⟩, ⟨.clock, true⟩, ⟨.clock, false⟩]

theorem sendEvents_eq_bitEvents (b : Byte) :
    sendEvents b = ⟨.load, false⟩ :: ((byteBits b).flatMap bitEvents ++ [⟨.load, true⟩]) := rfl

/-- One bit inside a frame is sampled once, at its rising CLOCK (R44). -/
theorem Listener.hearAll_bit {d : Listener} (v : Bool) (hload : d.lines.load = false) (hclock : d.lines.clock = false) :
    d.hearAll (bitEvents v) = { d with lines := { d.lines with data := v }, samples := d.samples ++ [v] } := by
  simp [bitEvents, Listener.hear, applyEvent, hload, hclock]

theorem Listener.hearAll_bits {d : Listener} (vs : List Bool) (hload : d.lines.load = false) (hclock : d.lines.clock = false) :
    d.hearAll (vs.flatMap bitEvents) =
      { d with lines := { d.lines with data := vs.getLastD d.lines.data }, samples := d.samples ++ vs } := by
  induction vs generalizing d with
  | nil => simp
  | cons v vs ih =>
    rw [List.flatMap_cons, Listener.hearAll_append, Listener.hearAll_bit v hload hclock]
    simp [ih, hload, hclock, List.getLast?_cons]

/-- A frame sent to a listener in sync, whatever it was in the middle of: its byte is latched (R45, R47). -/
theorem Listener.hearAll_sendEvents {d : Listener} (b : Byte) (hsync : d.inSync = true) (hclock : d.lines.clock = false) :
    d.hearAll (sendEvents b) =
      { d with
        lines := { d.lines with load := true, data := (byteBits b).getLastD d.lines.data }
        samples := byteBits b
        heard := d.heard ++ [.byte b] } := by
  rw [sendEvents_eq_bitEvents, Listener.hearAll_cons, Listener.hear_load_low, Listener.hearAll_append]
  simp [Listener.hearAll_bits, Listener.hear_load_high, Listener.closeFrame_of_inSync, hsync, hclock, byteOfSamples_byteBits]

/-- A listener in sync hears the bytes of the frames sent, after what it heard before. -/
theorem Listener.heard_sendEvents {d : Listener} (bs : List Byte) (hsync : d.inSync = true) (hclock : d.lines.clock = false) :
    (d.hearAll (bs.flatMap sendEvents)).heard = d.heard ++ bs.map .byte := by
  induction bs generalizing d with
  | nil => simp
  | cons b bs ih =>
    rw [List.flatMap_cons, Listener.hearAll_append, Listener.hearAll_sendEvents b hsync hclock]
    simp [ih, hsync, hclock]

/-- Settles O48: a listener in sync between frames, with nothing heard yet, is the case `Listener.start`. -/
theorem listenerHearsFrames : Obligations.ListenerHearsFrames :=
  fun bs _ _ => Listener.heard_sendEvents bs rfl rfl

/-! ## The indices of the glyph ROM (O8) -/

/-- Settles O8, from the value of the index (R65) and the range of the substituted code (R74): 91 * 7 + 6 = 643. -/
theorem romIndexReachable : Obligations.RomIndexReachable := by
  intro ch r
  have hsubst := subst_range ch
  have hr : r.val < 7 := r.isLt
  refine ⟨?_, ?_, ?_⟩
  · rw [romIndex_val, subst_toNat]
  · rw [romIndex_val]
    omega
  · rw [romIndex_val]
    exact Nat.mul_mod_left _ 7

end Sys2Proof.Machine

/-! ## What stands on the command port (O3)

Which instruction a command code stands for (R59, R68) is said once, with the operand ports it reads: `CommandReads`. The
decoder computes exactly that (`decode_command_eq_iff`). -/

namespace Sys2Proof.Machine

open Sys2Proof

/-- The table of the command codes (R59, R68), with the operands each command takes from the port. -/
inductive CommandReads (p : CmdPins) : Instr → Prop
  | init (hop : p.op = 0b000) : CommandReads p .init
  | renderChar (hop : p.op = 0b001) : CommandReads p (.renderChar p.ch p.pos)
  | renderText (hop : p.op = 0b010) : CommandReads p (.renderText p.text p.pos)
  | setBrightness (hop : p.op = 0b011) : CommandReads p (.setBrightness p.level)
  | clear (hop : p.op = 0b100) : CommandReads p .clear
  | reserved101 (hop : p.op = 0b101) : CommandReads p .reserved101
  | reserved110 (hop : p.op = 0b110) : CommandReads p .reserved110
  | reserved111 (hop : p.op = 0b111) : CommandReads p .reserved111

theorem CommandReads.decode_eq {p : CmdPins} {i : Instr} (h : CommandReads p i) : decode (.command p) = i := by
  cases h <;> simp [decode, decodeCommand, *]

/-- The eight codes are all there are. -/
theorem commandReads_decode (p : CmdPins) : CommandReads p (decode (.command p)) := by
  have hcodes : ∀ op : BitVec 3, op = 0b000 ∨ op = 0b001 ∨ op = 0b010 ∨ op = 0b011 ∨ op = 0b100 ∨ op = 0b101 ∨
      op = 0b110 ∨ op = 0b111 := by decide
  obtain ⟨i, h⟩ : ∃ i, CommandReads p i := by
    obtain h | h | h | h | h | h | h | h := hcodes p.op
    · exact ⟨_, .init h⟩
    · exact ⟨_, .renderChar h⟩
    · exact ⟨_, .renderText h⟩
    · exact ⟨_, .setBrightness h⟩
    · exact ⟨_, .clear h⟩
    · exact ⟨_, .reserved101 h⟩
    · exact ⟨_, .reserved110 h⟩
    · exact ⟨_, .reserved111 h⟩
  rwa [h.decode_eq]

theorem decode_command_eq_iff {p : CmdPins} {i : Instr} : decode (.command p) = i ↔ CommandReads p i :=
  ⟨fun h => h ▸ commandReads_decode p, CommandReads.decode_eq⟩

/-- Pins with the same code and the same operands of that code read as the same instruction (R60). -/
theorem CommandReads.of_same_operands {p q : CmdPins} {i : Instr} (h : CommandReads p i) (hop : p.op = q.op)
    (hchar : p.op = 0b001 → p.ch = q.ch ∧ p.pos = q.pos) (htext : p.op = 0b010 → p.text = q.text ∧ p.pos = q.pos)
    (hlevel : p.op = 0b011 → p.level = q.level) : CommandReads q i := by
  cases h with
  | init h => exact .init (hop ▸ h)
  | renderChar h =>
    obtain ⟨hch, hpos⟩ := hchar h
    rw [hch, hpos]
    exact .renderChar (hop ▸ h)
  | renderText h =>
    obtain ⟨htxt, hpos⟩ := htext h
    rw [htxt, hpos]
    exact .renderText (hop ▸ h)
  | setBrightness h =>
    rw [hlevel h]
    exact .setBrightness (hop ▸ h)
  | clear h => exact .clear (hop ▸ h)
  | reserved101 h => exact .reserved101 (hop ▸ h)
  | reserved110 h => exact .reserved110 (hop ▸ h)
  | reserved111 h => exact .reserved111 (hop ▸ h)

/-- Settles O3: `CommandReads` names the operands of each code, and has no row for a primitive or a frame. -/
theorem unreadOperandsIgnored : Obligations.UnreadOperandsIgnored := by
  refine ⟨fun p q hop hchar htext hlevel => ?_, fun p x => ⟨?_, ?_, ?_⟩, fun p d r => ⟨?_, ?_, ?_⟩⟩
  · exact ((commandReads_decode p).of_same_operands hop hchar htext hlevel).decode_eq.symm
  all_goals
    intro h
    cases decode_command_eq_iff.1 h

/-! ## The bytes the block sends (O45)

Every byte the sequencer or a command loads is made from the field of one of the three formats, so it has that format; what the
command port can start is listed by `CommandReads`. -/

/-! ### A byte made from a field has its format -/

theorem hasWireFormat_addrByte (digit : BitVec 3) : hasWireFormat (addrByte digit) = true := by
  revert digit; decide

theorem hasWireFormat_rowWireByte (dots : BitVec 5) : hasWireFormat (rowWireByte dots) = true := by
  revert dots; decide

theorem hasWireFormat_ctrlByte (level : BitVec 3) : hasWireFormat (ctrlByte level) = true := by
  revert level; decide

theorem clampPos_toNat_lt (pos : Position) : (clampPos pos).toNat < 8 := by
  unfold clampPos
  split
  · assumption
  · decide

/-- A clamped position fits the three bits of an address frame's field (R53, R96). -/
theorem addrEncode_eq_addrByte (pos : Position) : addrEncode pos = addrByte ((clampPos pos).setWidth 3) := by
  have hfits : (clampPos pos).zeroExtend 8 = ((clampPos pos).setWidth 3).zeroExtend 8 := by
    have hlt := clampPos_toNat_lt pos
    apply BitVec.eq_of_toNat_eq
    simp only [BitVec.truncate_eq_setWidth, BitVec.setWidth_eq, BitVec.toNat_setWidth]
    omega
  rw [addrEncode, addrByte, hfits]

theorem hasWireFormat_addrEncode (pos : Position) : hasWireFormat (addrEncode pos) = true := by
  rw [addrEncode_eq_addrByte]
  exact hasWireFormat_addrByte _

/-- A stored byte shifted right by 3 is its five dots (R61, R72). -/
theorem rowByte_eq_rowWireByte (ch : CharCode) (r : Fin Config.nRows) :
    rowByte ch r = rowWireByte ((glyphRomQ ch r).extractLsb' 3 5) := by
  have hlt := (glyphRomQ ch r).isLt
  apply BitVec.eq_of_toNat_eq
  simp only [rowByte, rowWireByte, BitVec.truncate_eq_setWidth, BitVec.toNat_setWidth, BitVec.toNat_ushiftRight,
    BitVec.extractLsb'_toNat, Nat.shiftRight_eq_div_pow]
  omega

theorem hasWireFormat_rowByte (ch : CharCode) (r : Fin Config.nRows) : hasWireFormat (rowByte ch r) = true := by
  rw [rowByte_eq_rowWireByte]
  exact hasWireFormat_rowWireByte _

/-! ### A frame that starts sends a byte of R56 -/

theorem wireSafe_of_phase_ne_run {s : State} (h : s.phase ≠ .run) : wireSafe s := fun hrun => absurd hrun h

theorem wireSafe_startFrame {s : State} {b : Byte} (h : hasWireFormat b = true) : wireSafe (s.startFrame b) := fun _ => h

theorem wireSafe_startGlyphs (s : State) (ch : CharCode) (pos : Position) (todo : List (CharCode × Position)) :
    wireSafe (s.startGlyphs ch pos todo) := fun _ => hasWireFormat_addrEncode pos

/-- What follows a frame is a row, the address of the next glyph render, or no frame at all (R117). -/
theorem wireSafe_closeFrame (s : State) : wireSafe s.closeFrame := by
  obtain ⟨_, -, hs⟩ | ⟨-, c, p, rest, -, hs⟩ | ⟨-, -, hs⟩ := closeFrame_cases s
  · rw [hs]
    exact fun _ => hasWireFormat_rowByte s.curCh _
  · rw [hs]
    exact fun _ => hasWireFormat_addrEncode p
  · rw [hs]
    exact wireSafe_of_phase_ne_run (by simp)

theorem accept_wireSafe {s t : State} {op : BitVec 3} {f : State → State} (h : accept s op f = .next t) (hs : wireSafe s)
    (hf : wireSafe (f { s with op := op })) : wireSafe t := by
  obtain ⟨-, hacc⟩ | ⟨-, hrej⟩ := accept_cases s op f
  · cases hacc.symm.trans h
    exact hf
  · cases hrej.symm.trans h
    exact hs

/-- A command starts the INIT sequence, a control frame, a glyph render, or nothing (R116). -/
theorem CommandReads.exec_wireSafe {p : CmdPins} {i : Instr} {s t : State} (hread : CommandReads p i) (h : exec i s = .next t)
    (hs : wireSafe s) : wireSafe t := by
  cases hread with
  | init => exact accept_wireSafe h hs (wireSafe_of_phase_ne_run (by simp))
  | renderChar =>
    unfold exec execRenderChar at h
    exact accept_wireSafe h hs (wireSafe_startGlyphs _ _ _ _)
  | renderText =>
    generalize p.text = text at h
    cases text with
    | nil => cases h; exact hs
    | cons =>
      unfold exec execRenderText at h
      exact accept_wireSafe h hs (wireSafe_startGlyphs _ _ _ _)
  | setBrightness =>
    unfold exec execSetBrightness at h
    exact accept_wireSafe h hs (wireSafe_startFrame (hasWireFormat_ctrlByte _))
  | clear =>
    unfold exec execClear at h
    exact accept_wireSafe h hs (wireSafe_startGlyphs _ _ _ _)
  | reserved101 | reserved110 | reserved111 => cases h; exact hs

theorem sequence_wireSafe {s t : State} (h : s.sequence = .next t) (hs : wireSafe s) : wireSafe t := by
  obtain ⟨-, rfl⟩ | ⟨e, hp, -, -, rfl⟩ | ⟨e, hp, -, -, rfl⟩ | ⟨e, hp, -, -, rfl⟩ | ⟨e, hp, -, -, rfl⟩ := sequence_cases h
  · exact hs
  · exact wireSafe_of_phase_ne_run (by simp)
  · exact wireSafe_of_phase_ne_run (by simp [hp])
  · exact fun _ => hs hp
  · exact wireSafe_closeFrame _

/-! ### Inputs leave the ports, none come -/

theorem sequence_pending {s t : State} (h : s.sequence = .next t) : t.pending = s.pending := by
  obtain ⟨-, rfl⟩ | ⟨e, -, -, -, rfl⟩ | ⟨e, -, -, -, rfl⟩ | ⟨e, -, -, -, rfl⟩ | ⟨e, -, -, -, rfl⟩ := sequence_cases h <;> simp

theorem ExecEffect.pending {s t : State} (h : ExecEffect s t) : t.pending = s.pending := by
  cases h <;> rfl

/-- The inputs after a step are inputs that stood at the ports before it (R58, R118). -/
theorem step_pending_subset {s t : State} (h : step s = .next t) : t.pending ⊆ s.pending := by
  obtain ⟨-, rfl⟩ | ⟨-, -, hs⟩ | ⟨-, -, rfl, -⟩ | ⟨p, rest, -, -, hpend, -, hexec⟩ := step_cases h
  · simp
  · simp [sequence_pending hs]
  · simp
  · simp [(exec_effect hexec).pending, hpend]

/-- Settles O45, by the cases of one step; an input taken is a command, since only the host drives the ports. -/
theorem wireBytesKept : Obligations.WireBytesKept := by
  intro s t hhost hs hstep
  refine ⟨fun p hp => hhost p (step_pending_subset hstep hp), ?_⟩
  obtain ⟨-, rfl⟩ | ⟨-, -, hseq⟩ | ⟨-, -, rfl, -⟩ | ⟨p, rest, -, -, hpend, -, hexec⟩ := step_cases hstep
  · exact wireSafe_of_phase_ne_run (by simp)
  · exact sequence_wireSafe hseq hs
  · exact hs
  · obtain ⟨pins, rfl⟩ := hhost p (by simp [hpend])
    exact (commandReads_decode pins).exec_wireSafe hexec hs

end Sys2Proof.Machine

/-! ## The contents of the glyph ROM (O4)

A stored byte is the five dots of a row shifted left by 3 (R72, R78): the three bits below the dots are zero, and shifting right
by 3 gives the dots back. -/

namespace Sys2Proof.Machine

open Sys2Proof

/-- The glyph of 'A' is the one the spec gives, whatever the free rows of the table are (R77). -/
@[simp] theorem glyphRow_letterA (r : Fin Config.nRows) : Config.glyphRow 33 r = Config.letterARow r := rfl

/-- The seven indices of the glyph of 'A' start at (0x41 - 0x20) * 7 = 231 (R65, R77). -/
theorem romByte_letterA (r : Fin 7) :
    Config.romByte (⟨231 + r.val, by omega⟩ : Fin 665) = (Config.letterARow r).zeroExtend 8 <<< 3 := by
  rw [← glyphRow_letterA]
  exact romByte_glyph 33 r _

theorem romByte_eq_dots_shifted (i : Fin Config.romDepth) :
    ∃ dots : BitVec Config.nCols, Config.romByte i = dots.zeroExtend 8 <<< 3 := ⟨_, rfl⟩

theorem padding_of_dots_shifted (dots : BitVec Config.nCols) : (dots.zeroExtend 8 <<< 3).extractLsb' 0 3 = 0 := by
  ext k hk
  simp [hk]

/-- The dots fill five of the eight bits, so the left shift drops none of them. -/
theorem dots_shifted_ushiftRight (dots : BitVec Config.nCols) : (dots.zeroExtend 8 <<< 3) >>> 3 = dots.zeroExtend 8 := by
  have hdots : dots.toNat < 32 := dots.isLt
  apply BitVec.eq_of_toNat_eq
  simp only [BitVec.truncate_eq_setWidth, BitVec.toNat_ushiftRight, BitVec.toNat_shiftLeft, BitVec.toNat_setWidth,
    Nat.shiftLeft_eq, Nat.shiftRight_eq_div_pow]
  omega

/-- Settles O4: 'A' from its rows in the table, the padding from the form of a stored byte. -/
theorem letterAAndPadding : Obligations.LetterAAndPadding := by
  refine ⟨?_, fun i => ?_⟩
  · simp only [romByte_letterA]
    decide
  · obtain ⟨dots, hbyte⟩ := romByte_eq_dots_shifted i
    rw [hbyte, dots_shifted_ushiftRight]
    exact ⟨padding_of_dots_shifted dots, rfl⟩

/-! ## The substitution of characters (O6)

LOOKUP reads the ROM at indices made from the substituted code alone, and a substituted code is one that passes. -/

theorem subst_eq_self {ch : CharCode} (hlo : 0x20 ≤ ch.toNat) (hhi : ch.toNat ≤ 0x7B) : subst ch = ch :=
  BitVec.eq_of_toNat_eq (by rw [subst_toNat, if_pos ⟨hlo, hhi⟩])

theorem subst_eq_space {ch : CharCode} (h : ch.toNat < 0x20 ∨ 0x7B < ch.toNat) : subst ch = 0x20 :=
  BitVec.eq_of_toNat_eq (by rw [subst_toNat, if_neg (by omega)]; rfl)

@[simp] theorem subst_subst (ch : CharCode) : subst (subst ch) = subst ch := by
  obtain ⟨hlo, hhi⟩ := subst_range ch
  exact subst_eq_self hlo hhi

@[simp] theorem romIndex_subst (ch : CharCode) (r : Fin Config.nRows) : romIndex (subst ch) r = romIndex ch r :=
  Fin.ext (by rw [romIndex_val, romIndex_val, subst_subst])

@[simp] theorem lookup_subst (ch : CharCode) : lookup (subst ch) = lookup ch := by
  simp [lookup, glyphRomQ]

/-- Settles O6, by the place of the code: in the range, below it, above it. -/
theorem substitutionPolicy : Obligations.SubstitutionPolicy := by
  intro ch
  exact ⟨subst_eq_self, fun hlow => subst_eq_space (.inl hlow), fun hhigh => subst_eq_space (.inr hhigh), (lookup_subst ch).symm⟩

end Sys2Proof.Machine

/-! ## The line events of a frame and of a step (O44, O15, O39)

A step out of reset performs no event, or the one its position selects: `State.nextEvent`, `step_performs`. What a step may do to
the lines is then a fact about that one event; what a frame does to them follows from the three events of one bit. -/

namespace Sys2Proof.Machine

open Sys2Proof

/-! ### The event of a step -/

/-- The line event the next step of the sequencer performs (R117). -/
def State.nextEvent (s : State) : Option LineEvent :=
  match s.phase with
  | .idle => none
  | .init => initEvents[s.ev]?
  | .run => frameEvent s.curByte s.ev

theorem State.nextEvent_of_init {s : State} (hp : s.phase = .init) : s.nextEvent = initEvents[s.ev]? := by
  simp [State.nextEvent, hp]

theorem State.nextEvent_of_run {s : State} (hp : s.phase = .run) : s.nextEvent = frameEvent s.curByte s.ev := by
  simp [State.nextEvent, hp]

/-- The sequencer performs the next event and no other (R117). -/
theorem sequence_performs {s t : State} (hp : s.phase ≠ .idle) (h : s.sequence = .next t) :
    ∃ e, s.nextEvent = some e ∧ t.lines = applyEvent s.lines e ∧ t.trace = s.trace ++ [e] := by
  obtain ⟨hidle, -⟩ | ⟨e, hi, he, -, rfl⟩ | ⟨e, hi, he, -, rfl⟩ | ⟨e, hr, he, -, rfl⟩ | ⟨e, hr, he, -, rfl⟩ := sequence_cases h
  · exact absurd hidle hp
  · exact ⟨e, (State.nextEvent_of_init hi).trans he, rfl, rfl⟩
  · exact ⟨e, (State.nextEvent_of_init hi).trans he, rfl, rfl⟩
  · exact ⟨e, (State.nextEvent_of_run hr).trans he, rfl, rfl⟩
  · exact ⟨e, (State.nextEvent_of_run hr).trans he, by simp, by simp⟩

theorem ExecEffect.lines_trace {s t : State} (h : ExecEffect s t) : t.lines = s.lines ∧ t.trace = s.trace := by
  cases h <;> exact ⟨rfl, rfl⟩

/-- What a step does to the lines and to the trace: hardware reset, no event, or the next event (R141, R117, R121). -/
theorem step_performs {s t : State} (h : step s = .next t) :
    (s.rstN = false ∧ t = s.hardwareReset) ∨ (t.lines = s.lines ∧ t.trace = s.trace) ∨
    ∃ e, s.nextEvent = some e ∧ t.lines = applyEvent s.lines e ∧ t.trace = s.trace ++ [e] := by
  obtain hreset | ⟨-, hp, hseq⟩ | ⟨-, -, rfl, -⟩ | ⟨p, rest, -, -, -, -, hexec⟩ := step_cases h
  · exact .inl hreset
  · exact .inr (.inr (sequence_performs hp hseq))
  · exact .inr (.inl ⟨rfl, rfl⟩)
  · exact .inr (.inl (exec_effect hexec).lines_trace)

/-! ### The edge contract -/

theorem edgeContract_snoc (ls : Lines) (es : List LineEvent) (e : LineEvent) :
    edgeContract ls (es ++ [e]) = (edgeContract ls es && (e.line == .clock || !(levelsAfter ls es).clock)) := by
  induction es generalizing ls with
  | nil => simp [edgeContract, levelsAfter]
  | cons x xs ih => simp [edgeContract, ih, levelsAfter, Bool.and_assoc]

/-- INIT leaves CLOCK low; in a frame CLOCK is high before its own falling edges only (R51, R87). -/
theorem MachineInv.nextEvent_edge {s : State} {e : LineEvent} (h : MachineInv s) (he : s.nextEvent = some e) :
    e.line = .clock ∨ s.lines.clock = false := by
  cases hp : s.phase with
  | idle => exact .inr (h.atBoundary_of_idle hp).clock
  | init =>
    obtain ⟨-, hclock, -⟩ := h.levels_of_init hp
    exact .inr hclock
  | run =>
    obtain ⟨-, hclock, -⟩ := h.levels_of_run hp
    rw [State.nextEvent_of_run hp] at he
    obtain ⟨hk, -⟩ | ⟨hk, -⟩ | ⟨-, -, hk, -⟩ | ⟨-, -, -, rfl⟩ | ⟨-, -, -, rfl⟩ := frameEvent_cases he
    · exact .inr (by simp [hclock, hk])
    · exact .inr (by simp [hclock, hk])
    · exact .inr (by simp [hclock, hk])
    · exact .inl rfl
    · exact .inl rfl

theorem sendEvents_bit (b : Byte) {i : Nat} (hi : i < 8) :
    (sendEvents b)[1 + 3 * i]? = some ⟨.data, b.getLsbD i⟩ ∧ (sendEvents b)[2 + 3 * i]? = some ⟨.clock, true⟩ ∧
    (sendEvents b)[3 + 3 * i]? = some ⟨.clock, false⟩ := by
  rw [sendEvents_eq]
  interval_cases i <;> exact ⟨rfl, rfl, rfl⟩

/-- Settles O44: the contract of the longer trace asks only about the event performed, and by the invariant the line
registers are the levels the trace leaves. -/
theorem edgeContractKept : Obligations.EdgeContractKept := by
  refine ⟨fun b i hi => sendEvents_bit b hi, fun s t hinv hedge hstep => ?_⟩
  obtain ⟨-, rfl⟩ | ⟨-, htrace⟩ | ⟨e, he, -, htrace⟩ := step_performs hstep
  · rfl
  · rwa [htrace]
  · rw [htrace, edgeContract_snoc, hedge, ← hinv.waveform]
    simpa using hinv.nextEvent_edge he

/-! ### Counting the events of a frame -/

@[simp] theorem countOn_nil (l : Line) : countOn l [] = 0 := rfl

@[simp] theorem countOn_cons (l : Line) (e : LineEvent) (es : List LineEvent) :
    countOn l (e :: es) = (if e.line = l then 1 else 0) + countOn l es := by
  by_cases h : e.line = l <;> simp [countOn, h, Nat.add_comm]

@[simp] theorem countOn_append (l : Line) (es es' : List LineEvent) :
    countOn l (es ++ es') = countOn l es + countOn l es' := by
  simp [countOn]

/-- The events of each bit: one on DATA, two on CLOCK. -/
theorem countOn_bits (l : Line) (vs : List Bool) :
    countOn l (vs.flatMap bitEvents) = vs.length * match l with | .data => 1 | .clock => 2 | _ => 0 := by
  induction vs with
  | nil => simp
  | cons v vs ih => cases l <;> simp [bitEvents, ih] <;> omega

/-- R91: the events of a frame by their line. -/
theorem countOn_sendEvents (l : Line) (b : Byte) :
    countOn l (sendEvents b) = match l with | .load => 2 | .data => 8 | .clock => 16 | .reset => 0 := by
  rw [sendEvents_eq_bitEvents]
  cases l <;> simp [countOn_bits, Config.frameBits]

/-! ### Counting the level changes of a frame -/

theorem levelChanges_append (l : Line) (ls : Lines) (es es' : List LineEvent) :
    levelChanges l ls (es ++ es') = levelChanges l ls es + levelChanges l (levelsAfter ls es) es' := by
  induction es generalizing ls with
  | nil => simp [levelChanges, levelsAfter]
  | cons e es ih => simp [levelChanges, ih, levelsAfter, Nat.add_assoc]

/-- Between bits CLOCK is low, and DATA has the level of the last bit (R84). -/
theorem levelsAfter_bits {ls : Lines} (vs : List Bool) (hclock : ls.clock = false) :
    levelsAfter ls (vs.flatMap bitEvents) = { ls with data := vs.getLastD ls.data } := by
  induction vs generalizing ls with
  | nil => simp [levelsAfter]
  | cons v vs ih =>
    have hbit : levelsAfter ls (bitEvents v) = { ls with data := v } := by
      simp [levelsAfter, bitEvents, applyEvent, hclock]
    rw [List.flatMap_cons, levelsAfter_append, hbit, ih (ls := { ls with data := v }) hclock]
    simp [List.getLast?_cons]

/-- How often the level changes along the bits `vs`, from the level `v`. -/
def bitChanges : Bool → List Bool → Nat
  | _, [] => 0
  | v, w :: vs => (if v ≠ w then 1 else 0) + bitChanges w vs

theorem levelChanges_bits (l : Line) {ls : Lines} (vs : List Bool) (hclock : ls.clock = false) :
    levelChanges l ls (vs.flatMap bitEvents) =
      match l with | .data => bitChanges ls.data vs | .clock => 2 * vs.length | _ => 0 := by
  induction vs generalizing ls with
  | nil => cases l <;> rfl
  | cons v vs ih =>
    cases l <;> simp [bitEvents, levelChanges, lineLevel, applyEvent, hclock, bitChanges, ih]
    omega

/-- R91: the level changes of a frame by their line, from LOAD 1 and CLOCK 0. -/
theorem levelChanges_sendEvents (l : Line) {ls : Lines} (b : Byte) (hload : ls.load = true) (hclock : ls.clock = false) :
    levelChanges l ls (sendEvents b) =
      match l with | .load => 2 | .data => bitChanges ls.data (byteBits b) | .clock => 16 | .reset => 0 := by
  rw [sendEvents_eq_bitEvents, levelChanges, levelChanges_append, levelChanges_bits l _ (by simpa [applyEvent] using hclock),
    levelsAfter_bits _ (by simpa [applyEvent] using hclock)]
  cases l <;> simp [levelChanges, lineLevel, applyEvent, hload, Config.frameBits]

/-- The changes along `f 0, f 1, …` are the indices where `f` differs from the level before. -/
theorem bitChanges_map_range (f : Nat → Bool) (v : Bool) (n : Nat) :
    bitChanges v ((List.range n).map f) =
      ((List.range n).filter (fun i => f i != (if i = 0 then v else f (i - 1)))).length := by
  induction n generalizing f v with
  | zero => rfl
  | succ n ih =>
    have hshift : ∀ i, (if i = 0 then f 0 else f (i - 1 + 1)) = f i := by
      intro i
      cases i <;> rfl
    have htail := ih (fun i => f (i + 1)) (f 0)
    simp only [hshift] at htail
    rw [List.range_succ_eq_map, List.map_cons, List.map_map, bitChanges, List.filter_cons, List.filter_map]
    by_cases h : f 0 = v
    · simp [h, Function.comp_def, ← htail]
    · simp [h, Ne.symm h, Function.comp_def, htail, Nat.add_comm]

/-- Settles O15, from the counts over the eight bits of the byte; the bit before bit `i` is the level DATA has before it. -/
theorem frameCounts : Obligations.FrameCounts := fun b d _ =>
  ⟨countOn_sendEvents .load b, countOn_sendEvents .data b, countOn_sendEvents .clock b, countOn_sendEvents .reset b,
    levelChanges_sendEvents .load b rfl rfl, levelChanges_sendEvents .clock b rfl rfl,
    (levelChanges_sendEvents .data b rfl rfl).trans (bitChanges_map_range b.getLsbD d 8)⟩

/-! ### The RESET line -/

theorem lineLevel_applyEvent_of_ne {ls : Lines} {e : LineEvent} {l : Line} (h : e.line ≠ l) :
    lineLevel (applyEvent ls e) l = lineLevel ls l := by
  obtain ⟨line, level⟩ := e
  cases line <;> cases l <;> simp [lineLevel, applyEvent] at h ⊢

/-- No event of SEND is on RESET (R93). -/
theorem frameEvent_line_ne_reset {b : Byte} {k : Nat} {e : LineEvent} (h : frameEvent b k = some e) : e.line ≠ .reset := by
  obtain ⟨-, rfl⟩ | ⟨-, rfl⟩ | ⟨-, -, -, rfl⟩ | ⟨-, -, -, rfl⟩ | ⟨-, -, -, rfl⟩ := frameEvent_cases h <;> simp

theorem nextEvent_line_ne_reset {s : State} {e : LineEvent} (hp : s.phase ≠ .init) (he : s.nextEvent = some e) :
    e.line ≠ .reset := by
  cases hphase : s.phase with
  | idle => simp [State.nextEvent, hphase] at he
  | init => exact absurd hphase hp
  | run => exact frameEvent_line_ne_reset ((State.nextEvent_of_run hphase).symm.trans he)

/-- Settles O39: the event of a step outside INIT is an event of SEND. -/
theorem resetLineOnlyByInit : Obligations.ResetLineOnlyByInit := by
  refine ⟨fun s t hrst hp hstep => ?_, countOn_sendEvents .reset, fun s hinv hrun => ?_⟩
  · obtain ⟨hlow, -⟩ | ⟨hlines, htrace⟩ | ⟨e, he, hlines, htrace⟩ := step_performs hstep
    · simp [hrst] at hlow
    · rw [hlines, htrace]
      exact ⟨rfl, rfl⟩
    · have hne : e.line ≠ .reset := nextEvent_line_ne_reset hp he
      rw [hlines, htrace]
      exact ⟨lineLevel_applyEvent_of_ne hne, by simp [hne]⟩
  · obtain ⟨-, -, hreset⟩ := hinv.levels_of_run hrun
    exact hreset

end Sys2Proof.Machine

/-! ## The value table of ADDR_ENCODE (O7)

ADDR_ENCODE clamps before it encodes (R96, R97): a position of the display is left as it is, every other position aliases to the
leftmost digit. -/

namespace Sys2Proof.Machine

open Sys2Proof

theorem clampPos_eq_self {pos : Position} (h : pos.toNat ≤ 7) : clampPos pos = pos := if_pos (Nat.lt_succ_of_le h)

/-- The clamp is to 0, neither to 7 nor modulo 8 (R97). -/
theorem clampPos_eq_zero {pos : Position} (h : 7 < pos.toNat) : clampPos pos = 0 := if_neg (Nat.not_lt_of_le h)

theorem addrEncode_of_le {pos : Position} (h : pos.toNat ≤ 7) : addrEncode pos = 0xA0 ||| pos := by
  rw [addrEncode, clampPos_eq_self h]
  exact congrArg (0xA0 ||| ·) (BitVec.setWidth_eq pos)

theorem addrEncode_of_gt {pos : Position} (h : 7 < pos.toNat) : addrEncode pos = 0xA0 := by
  rw [addrEncode, clampPos_eq_zero h]
  rfl

/-- Settles O7: below 8 the clamp keeps the position, from 8 on the `|` adds nothing to the pattern. -/
theorem addrEncodeTable : Obligations.AddrEncodeTable := fun _ => ⟨addrEncode_of_le, addrEncode_of_gt⟩

end Sys2Proof.Machine

/-! ## The steps of an operation in progress (O30)

Each branch of R117 as an equation about `step`, and each way a frame can end as an equation about `closeFrame`. -/

namespace Sys2Proof.Machine

open Sys2Proof

/-- The block between two operations: the position an operation ends at (R117, R119). -/
def State.finish (s : State) : State := { s with ev := 0, phase := .idle, busy := false }

/-- After any frame of a glyph render but the last comes the next row of the glyph (R106, R117). -/
theorem closeFrame_of_row {s : State} (hk : s.kind = .glyph) (hf : s.frame < 7) :
    s.closeFrame = { s with ev := 0, frame := s.frame + 1, curByte := rowByte s.curCh ⟨s.frame, hf⟩ } := dif_pos ⟨hk, hf⟩

/-- After the last frame of a glyph render comes the address frame of the render first in `todo` (R109, R117). -/
theorem closeFrame_of_render {s : State} {c : CharCode} {p : Position} {rest : List (CharCode × Position)}
    (hlast : ¬ (s.kind = .glyph ∧ s.frame < 7)) (htodo : s.todo = (c, p) :: rest) :
    s.closeFrame = { s with ev := 0, curCh := c, curPos := p, todo := rest, frame := 0, curByte := addrEncode p } := by
  rw [State.closeFrame, dif_neg hlast, htodo]

theorem closeFrame_of_nothing_left {s : State} (hlast : ¬ (s.kind = .glyph ∧ s.frame < 7)) (htodo : s.todo = []) :
    s.closeFrame = s.finish := by
  simp only [State.closeFrame, dif_neg hlast, htodo, State.finish]

section
variable {s : State} {e : LineEvent} (hrst : s.rstN = true)
include hrst

theorem step_of_ne_idle (hp : s.phase ≠ .idle) : step s = s.sequence := by
  simp [step, hrst, hp]

theorem step_init_event (hp : s.phase = .init) (he : initEvents[s.ev]? = some e) (hev : s.ev ≠ 2) :
    step s = .next { s.perform e with ev := s.ev + 1 } := by
  rw [step_of_ne_idle hrst (by simp [hp])]
  simp [State.sequence, hp, he, hev]

theorem step_init_end (hp : s.phase = .init) (hev : s.ev = 2) : step s = .next (s.perform ⟨.reset, true⟩).finishInit := by
  rw [step_of_ne_idle hrst (by simp [hp])]
  simp [State.sequence, hp, hev, initEvents]

theorem step_frame_event (hp : s.phase = .run) (he : frameEvent s.curByte s.ev = some e) (hev : s.ev < 25) :
    step s = .next { s.perform e with ev := s.ev + 1 } := by
  rw [step_of_ne_idle hrst (by simp [hp])]
  simp [State.sequence, hp, he, hev]

theorem step_frame_end (hp : s.phase = .run) (hev : s.ev = 25) : step s = .next (s.perform ⟨.load, true⟩).closeFrame := by
  rw [step_of_ne_idle hrst (by simp [hp])]
  simp [State.sequence, hp, hev, frameEvent]

end

/-- Settles O30: the branches inside INIT and inside a frame, the end of INIT, and the three ways a frame can end. -/
theorem sequencerTransitions : Obligations.SequencerTransitions := by
  intro s hrst
  refine ⟨fun hp hev => ?_, fun hp hev => ?_, fun hp hev => ?_, fun hp hev hk hf => ?_, fun hp hev hlast c p rest htodo => ?_,
    fun hp hev hlast htodo => ?_⟩
  · have he : initEvents[s.ev]? = some _ := List.getElem?_eq_getElem (Nat.lt_succ_of_lt hev)
    exact ⟨_, he, step_init_event hrst hp he hev.ne⟩
  · exact step_init_end hrst hp hev
  · obtain ⟨e, he⟩ := frameEvent_some (b := s.curByte) hev.le
    exact ⟨e, he, step_frame_event hrst hp he hev⟩
  · exact (step_frame_end hrst hp hev).trans (congrArg _ (closeFrame_of_row (s := s.perform _) hk hf))
  · exact (step_frame_end hrst hp hev).trans (congrArg _ (closeFrame_of_render (s := s.perform _) hlast htodo))
  · exact (step_frame_end hrst hp hev).trans (congrArg _ (closeFrame_of_nothing_left (s := s.perform _) hlast htodo))

end Sys2Proof.Machine

/-! ## Accepting a command (O29, O27, O28)

In an accepting state a command is its start with `op` set (R116). RENDER_CHAR, RENDER_TEXT and CLEAR start the same way, so where
their operands agree they differ in `op` alone, accepted or not. -/

namespace Sys2Proof.Machine

open Sys2Proof

/-! ### The meanings of the commands -/

section
variable (s : State)

theorem exec_init : exec .init s = accept s 0b000 State.startInit := rfl

theorem exec_renderChar (ch : CharCode) (pos : Position) :
    exec (.renderChar ch pos) s = accept s 0b001 (·.startGlyphs ch pos []) := rfl

theorem exec_renderText_nil (start : Position) : exec (.renderText [] start) s = .next s := rfl

theorem exec_renderText_cons (c : CharCode) (cs : List CharCode) (start : Position) :
    exec (.renderText (c :: cs) start) s = accept s 0b010 (·.startGlyphs c start (textRenders cs (start + 1))) := rfl

theorem exec_setBrightness (level : Level) :
    exec (.setBrightness level) s = accept s 0b011 (·.startFrame (brightnessByte level)) := rfl

theorem exec_clear : exec .clear s = accept s 0b100 (·.startGlyphs Config.chLo 0 clearRest) := rfl

end

/-! ### What is accepted -/

theorem accept_of_accepts {s : State} (ha : s.accepts = true) (op : BitVec 3) (f : State → State) :
    accept s op f = .next (f { s with op := op }) := by
  simp [accept, ha]

/-- The renders of a text are its characters at consecutive positions, modulo 256 (R63, R109). -/
theorem textRenders_eq_zipIdx (text : List CharCode) (start : Position) :
    textRenders text start = text.zipIdx.map (fun x => (x.1, start + BitVec.ofNat 8 x.2)) := by
  induction text generalizing start with
  | nil => rfl
  | cons c cs ih =>
    have hshift (k : Nat) : start + 1 + BitVec.ofNat 8 k = start + BitVec.ofNat 8 (k + 1) := by
      rw [Nat.add_comm k, BitVec.ofNat_add, BitVec.add_assoc]
      rfl
    rw [textRenders, ih, List.zipIdx_cons, List.map_cons, List.zipIdx_succ, List.map_map]
    simp only [Function.comp_def, hshift, BitVec.add_zero]

theorem maskLevel_toNat (level : Level) : (maskLevel level).toNat = level.toNat % 8 := by
  simp [maskLevel]

/-- The `|` of R55 and R111 sets the three bits below the pattern. -/
theorem ctrlByte_eq_or (v : BitVec 3) : ctrlByte v = 0xE0 ||| BitVec.ofNat 8 v.toNat := by
  revert v; decide

theorem ctrlByte_eq_add (v : BitVec 3) : ctrlByte v = BitVec.ofNat 8 (0xE0 + v.toNat) := by
  revert v; decide

theorem brightnessByte_eq_or (level : Level) : brightnessByte level = 0xE0 ||| BitVec.ofNat 8 (level.toNat % 8) := by
  rw [brightnessByte, ctrlByte_eq_or, maskLevel_toNat]

theorem brightnessByte_eq_add (level : Level) : brightnessByte level = BitVec.ofNat 8 (0xE0 + level.toNat % 8) := by
  rw [brightnessByte, ctrlByte_eq_add, maskLevel_toNat]

/-- Settles O29: the start of each command, with the renders of a text and the byte of a level in the form R116 gives them. -/
theorem acceptTransitions : Obligations.AcceptTransitions := by
  intro s ha
  refine ⟨?_, fun ch pos => ?_, exec_renderText_nil s, fun c cs start => ?_, fun level => ?_, ?_⟩
  · rw [exec_init, accept_of_accepts ha]
    rfl
  · rw [exec_renderChar, accept_of_accepts ha]
    rfl
  · rw [exec_renderText_cons, accept_of_accepts ha, textRenders_eq_zipIdx]
    rfl
  · rw [exec_setBrightness, accept_of_accepts ha, brightnessByte_eq_or]
    rfl
  · rw [exec_clear, accept_of_accepts ha]
    rfl

/-- Two commands that start the same glyph renders make the same state but for `op`, also where the block accepts neither. -/
theorem accept_startGlyphs_eq_but_op {s t u : State} {op op' : BitVec 3} {ch : CharCode} {pos : Position}
    {todo : List (CharCode × Position)} (ht : accept s op (·.startGlyphs ch pos todo) = .next t)
    (hu : accept s op' (·.startGlyphs ch pos todo) = .next u) : { t with op := u.op } = u := by
  cases ha : s.accepts with
  | true =>
    rw [accept_of_accepts ha] at ht hu
    cases ht
    cases hu
    rfl
  | false =>
    simp only [accept, ha] at ht hu
    cases ht
    cases hu
    rfl

/-- Settles O27: after the first space, the renders of seven spaces from position 1 are those CLEAR has left (R113). -/
theorem clearIsEightSpaces : Obligations.ClearIsEightSpaces := by
  intro s t u ht hu
  have hrest : textRenders (List.replicate 7 0x20) (0 + 1) = clearRest := by decide
  rw [exec_clear] at ht
  rw [List.replicate_succ, exec_renderText_cons, hrest] at hu
  exact accept_startGlyphs_eq_but_op ht hu

/-- Settles O28: a text of one character leaves no render to follow. -/
theorem renderCharIsOneText : Obligations.RenderCharIsOneText := by
  intro ch pos s t u ht hu
  rw [exec_renderChar] at ht
  rw [exec_renderText_cons, textRenders] at hu
  exact accept_startGlyphs_eq_but_op ht hu

end Sys2Proof.Machine

/-! ## The frame list of a glyph render (O13)

Row `r` of a glyph stands `r` places after its row 0 in the ROM (R34, R65). -/

namespace Sys2Proof.Machine

open Sys2Proof

/-- The index of row 0 (R65). -/
theorem romIndex_zero_val (ch : CharCode) :
    (romIndex ch 0).val = ((if 0x20 ≤ ch.toNat ∧ ch.toNat ≤ 0x7B then ch.toNat else 0x20) - 0x20) * 7 := by
  rw [romIndex_val, subst_toNat]
  rfl

theorem romIndex_zero_le (ch : CharCode) : (romIndex ch 0).val ≤ 637 := by
  rw [romIndex_zero_val]
  split <;> omega

theorem romIndex_eq_add (ch : CharCode) (r : Fin 7) : romIndex ch r = romIndex ch 0 + Fin.ofNat 665 r.val := by
  have hzero := romIndex_zero_le ch
  have hrow : (romIndex ch r).val = (romIndex ch 0).val + r.val := by rw [romIndex_val, romIndex_val]; rfl
  apply Fin.ext
  rw [hrow, Fin.val_add, Fin.val_ofNat]
  show _ = (_ + r.val % 665) % 665
  omega

theorem addrEncode_eq_ite (pos : Position) : addrEncode pos = if pos.toNat ≤ 7 then 0xA0 ||| pos else 0xA0 := by
  split
  · next h => exact addrEncode_of_le h
  · next h => exact addrEncode_of_gt (Nat.lt_of_not_le h)

/-- Settles O13, with row 0 of the substituted character as the index; the worked example is evaluated. -/
theorem glyphFramesForm : Obligations.GlyphFramesForm := by
  refine ⟨fun ch pos => ⟨romIndex ch 0, romIndex_zero_le ch, romIndex_zero_val ch, ?_⟩, by decide⟩
  have hrow : rowByte ch = fun r => Config.romByte (romIndex ch 0 + Fin.ofNat 665 r.val) >>> 3 :=
    funext fun r => by rw [rowByte, glyphRomQ, romIndex_eq_add]
  rw [glyphFrames_eq, addrEncode_eq_ite, hrow]

end Sys2Proof.Machine

/-! ## Runs of the sequencer (O19, O22, O20)

Inside an operation the steps perform its events one by one (`runs_events`), so 3 steps perform INIT (`runs_init`) and 26 a frame
(`runs_frame`). The frames of a glyph render follow one another (`runs_glyph_frames`), and whatever stands in `todo` comes after
the last of them (`runs_glyph`). -/

namespace Sys2Proof.Machine

open Sys2Proof

/-! ### Runs one after the other -/

theorem runs_one (s : State) : runs 1 s = step s := by
  cases h : step s <;> simp [runs, h]

theorem runs_add {m : Nat} {s t : State} (n : Nat) (h : runs m s = .next t) : runs (m + n) s = runs n t := by
  induction m generalizing s with
  | zero => cases h; rw [Nat.zero_add]
  | succ m ih =>
    rw [Nat.add_right_comm, runs]
    rw [runs] at h
    cases hstep : step s with
    | next s' => rw [hstep] at h; exact ih h
    | fault r => rw [hstep] at h; cases h
    | refused r => rw [hstep] at h; cases h

theorem runs_snoc {k : Nat} {s t : State} (h : runs k s = .next t) : runs (k + 1) s = step t :=
  (runs_add 1 h).trans (runs_one t)

/-! ### Several line events -/

/-- The state after a list of line events, performed one after the other. -/
def State.performAll (s : State) (es : List LineEvent) : State :=
  { s with lines := levelsAfter s.lines es, trace := s.trace ++ es }

@[simp] theorem State.performAll_nil (s : State) : s.performAll [] = s := by
  simp [State.performAll, levelsAfter_nil]

@[simp] theorem State.performAll_kind (s : State) (es : List LineEvent) : (s.performAll es).kind = s.kind := rfl

theorem State.performAll_append (s : State) (es es' : List LineEvent) :
    s.performAll (es ++ es') = (s.performAll es).performAll es' := by
  simp [State.performAll, levelsAfter_append]

theorem State.performAll_snoc (s : State) (es : List LineEvent) (e : LineEvent) :
    s.performAll (es ++ [e]) = (s.performAll es).perform e := s.performAll_append es [e]

/-- A frame ends with LOAD 1, CLOCK 0 and DATA at the last bit sent, and leaves RESET (R86, R93). -/
theorem levelsAfter_sendEvents (ls : Lines) (b : Byte) :
    levelsAfter ls (sendEvents b) = ⟨true, b.getLsbD 7, false, ls.reset⟩ := rfl

theorem levelsAfter_frames (ls : Lines) (b : Byte) (bs : List Byte) :
    levelsAfter ls ((b :: bs).flatMap sendEvents) = ⟨true, (bs.getLastD b).getLsbD 7, false, ls.reset⟩ := by
  induction bs generalizing ls b with
  | nil => simp [levelsAfter_sendEvents]
  | cons c cs ih => rw [List.flatMap_cons, levelsAfter_append, levelsAfter_sendEvents, ih, List.getLastD_cons]

theorem State.withEv_self {s : State} {k : Nat} (h : s.ev = k) : { s with ev := k } = s := by
  cases h
  rfl

/-- A run inside an operation: where each position selects the next of the events `es`, `n` steps perform the first `n`. -/
theorem runs_events {s : State} {es : List LineEvent} {n : Nat} (hev : s.ev = 0) (hn : n ≤ es.length)
    (hstep : ∀ k e, k < n → es[k]? = some e →
      step { s.performAll (es.take k) with ev := k } = .next { (s.performAll (es.take k)).perform e with ev := k + 1 }) :
    runs n s = .next { s.performAll (es.take n) with ev := n } := by
  induction n with
  | zero =>
    rw [List.take_zero, State.performAll_nil, State.withEv_self hev]
    rfl
  | succ n ih =>
    have hbefore := ih (Nat.le_of_succ_le hn) fun k e hk => hstep k e (Nat.lt_succ_of_lt hk)
    rw [runs_snoc hbefore, List.take_succ_eq_append_getElem hn, State.performAll_snoc]
    exact hstep n es[n] (Nat.lt_succ_self n) (List.getElem?_eq_getElem hn)

/-! ### INIT -/

theorem runs_init {s : State} (hrst : s.rstN = true) (hp : s.phase = .init) (hev : s.ev = 0) :
    runs 3 s = .next (s.performAll initEvents).finishInit := by
  have hlast : s.performAll initEvents = (s.performAll (initEvents.take 2)).perform ⟨.reset, true⟩ :=
    s.performAll_snoc (initEvents.take 2) _
  have hwithin : runs 2 s = .next { s.performAll (initEvents.take 2) with ev := 2 } :=
    runs_events hev (by decide) fun k e hk he => step_init_event hrst hp he hk.ne
  rw [runs_snoc hwithin, hlast]
  exact step_init_end (s := { s.performAll _ with ev := 2 }) hrst hp rfl

/-! ### One frame -/

theorem frameEvent_eq_getElem? (b : Byte) {k : Nat} (hk : k ≤ 25) : frameEvent b k = (sendEvents b)[k]? := by
  rw [sendEvents_eq]
  interval_cases k <;> rfl

theorem closeFrame_withEv (s : State) (k : Nat) : State.closeFrame { s with ev := k } = s.closeFrame := rfl

/-- 26 steps perform a frame; what they end at is what follows the frame (R84, R117). -/
theorem runs_frame {s : State} {b : Byte} (hrst : s.rstN = true) (hp : s.phase = .run) (hev : s.ev = 0) (hbyte : s.curByte = b) :
    runs 26 s = .next (s.performAll (sendEvents b)).closeFrame := by
  subst hbyte
  have hwithin : runs 25 s = .next { s.performAll ((sendEvents s.curByte).take 25) with ev := 25 } :=
    runs_events hev (Nat.le_succ 25) fun k e hk he =>
      step_frame_event hrst hp ((frameEvent_eq_getElem? s.curByte hk.le).trans he) hk
  have hlast : s.performAll (sendEvents s.curByte) = (s.performAll ((sendEvents s.curByte).take 25)).perform ⟨.load, true⟩ :=
    s.performAll_snoc ((sendEvents s.curByte).take 25) _
  rw [runs_snoc hwithin, hlast, ← closeFrame_withEv _ 25]
  exact step_frame_end (s := { s.performAll _ with ev := 25 }) hrst hp rfl

/-! ### One glyph render -/

/-- Inside a glyph render, between two frames: the frames of `bs` are performed, and the next one has index `k` and byte `b`. -/
def State.betweenFrames (s : State) (bs : List Byte) (k : Nat) (b : Byte) : State :=
  { s.performAll (bs.flatMap sendEvents) with ev := 0, frame := k, curByte := b }

theorem State.betweenFrames_nil {s : State} {k : Nat} {b : Byte} (hev : s.ev = 0) (hframe : s.frame = k) (hbyte : s.curByte = b) :
    s.betweenFrames [] k b = s := by
  cases hframe
  cases hbyte
  rw [State.betweenFrames, List.flatMap_nil, State.performAll_nil, ← hev]

@[simp] theorem State.betweenFrames_frame (s : State) (bs : List Byte) (k : Nat) (b : Byte) :
    (s.betweenFrames bs k b).frame = k := rfl

theorem State.performAll_betweenFrames (s : State) (bs : List Byte) (k : Nat) (b : Byte) :
    (s.betweenFrames bs k b).performAll (sendEvents b) = s.betweenFrames (bs ++ [b]) k b := by
  simp [State.betweenFrames, State.performAll, levelsAfter_append]

theorem glyphFrames_getElem?_row {ch : CharCode} {pos : Position} {k : Nat} (hk : k < 7) :
    (glyphFrames ch pos)[k + 1]? = some (rowByte ch ⟨k, hk⟩) := by
  simp [glyphFrames_eq, hk]

theorem runs_betweenFrames {s : State} (hrst : s.rstN = true) (hp : s.phase = .run) (bs : List Byte) (k : Nat) (b : Byte) :
    runs 26 (s.betweenFrames bs k b) = .next (s.betweenFrames (bs ++ [b]) k b).closeFrame := by
  rw [← State.performAll_betweenFrames]
  exact runs_frame (s := s.betweenFrames bs k b) hrst hp rfl rfl

section
variable {s : State} {pos : Position} (hrst : s.rstN = true) (hp : s.phase = .run) (hev : s.ev = 0) (hkind : s.kind = .glyph)
  (hframe : s.frame = 0) (hbyte : s.curByte = addrEncode pos)
include hrst hp hev hkind hframe hbyte

/-- The frames of a glyph render before the one with index `k`, whose byte is `b` (R106). -/
theorem runs_glyph_frames {k : Nat} {b : Byte} (hb : (glyphFrames s.curCh pos)[k]? = some b) :
    runs (26 * k) s = .next (s.betweenFrames ((glyphFrames s.curCh pos).take k) k b) := by
  induction k generalizing b with
  | zero =>
    have haddr : addrEncode pos = b := Option.some.inj hb
    rw [List.take_zero, State.betweenFrames_nil hev hframe (hbyte.trans haddr)]
    rfl
  | succ k ih =>
    obtain ⟨hlt, -⟩ := List.getElem?_eq_some_iff.1 hb
    rw [glyphFrames_length] at hlt
    have hk : k < 7 := Nat.lt_of_succ_lt_succ hlt
    have hbefore : k < (glyphFrames s.curCh pos).length := by rw [glyphFrames_length]; exact Nat.lt_of_succ_lt hlt
    rw [glyphFrames_getElem?_row hk] at hb
    cases hb
    rw [Nat.mul_succ, runs_add 26 (ih (List.getElem?_eq_getElem hbefore)), List.take_succ_eq_append_getElem hbefore,
      runs_betweenFrames hrst hp]
    exact congrArg _ (closeFrame_of_row (s := s.betweenFrames _ _ _) hkind hk)

/-- A whole glyph render, up to what follows it (R106, R117). -/
theorem runs_glyph : runs 208 s = .next (s.betweenFrames (glyphFrames s.curCh pos) 7 (rowByte s.curCh 6)).closeFrame := by
  have hlast : (glyphFrames s.curCh pos)[7]? = some (rowByte s.curCh 6) := glyphFrames_getElem?_row (by omega)
  have hframes : (glyphFrames s.curCh pos).take 7 ++ [rowByte s.curCh 6] = glyphFrames s.curCh pos := rfl
  rw [runs_add 26 (runs_glyph_frames hrst hp hev hkind hframe hbyte hlast), runs_betweenFrames hrst hp, hframes]

end

/-! ### Whole commands -/

theorem Completed.accepts {s u : State} {es : List LineEvent} (h : Completed s u es) (ha : s.accepts = true) :
    u.accepts = true := by
  obtain ⟨-, hinit, -⟩ := (accepts_iff s).1 ha
  exact (accepts_iff u).2 ⟨h.phase, h.initialized.trans hinit, h.busy⟩

/-- A frame that stands alone ends the operation (R117). -/
theorem runs_startFrame {s : State} (hrst : s.rstN = true) (op : BitVec 3) (b : Byte) :
    ∃ u, runs 26 (State.startFrame { s with op := op } b) = .next u ∧ Completed s u (sendEvents b) ∧
      u.op = op ∧ u.curCh = s.curCh ∧ u.curPos = s.curPos := by
  have hruns := runs_frame (s := State.startFrame { s with op := op } b) hrst rfl rfl rfl
  rw [closeFrame_of_nothing_left (by simp) rfl] at hruns
  exact ⟨_, hruns, ⟨rfl, rfl, rfl, rfl, rfl, rfl, rfl, rfl, rfl⟩, rfl, rfl, rfl⟩

/-- The registers a glyph render leaves alone are as before its acceptance, wherever it stands when the block goes idle. -/
theorem completed_startGlyphs (s : State) (op : BitVec 3) (ch : CharCode) (pos : Position) (bs : List Byte) (k : Nat) (b : Byte) :
    Completed s ((State.startGlyphs { s with op := op } ch pos []).betweenFrames bs k b).finish (bs.flatMap sendEvents) :=
  ⟨rfl, rfl, rfl, rfl, rfl, rfl, rfl, rfl, rfl⟩

/-- A glyph render with none to follow it ends the operation (R117). -/
theorem runs_startGlyphs {s : State} (hrst : s.rstN = true) (op : BitVec 3) (ch : CharCode) (pos : Position) :
    ∃ u, runs 208 (State.startGlyphs { s with op := op } ch pos []) = .next u ∧
      Completed s u ((glyphFrames ch pos).flatMap sendEvents) := by
  have hruns := runs_glyph (s := State.startGlyphs { s with op := op } ch pos []) hrst rfl rfl rfl rfl rfl
  rw [State.startGlyphs_curCh, closeFrame_of_nothing_left (by simp) rfl] at hruns
  exact ⟨_, hruns, completed_startGlyphs s op ch pos _ 7 _⟩

/-- Settles O19: the three events of INIT, from the state its acceptance makes; a block that accepts is initialized. -/
theorem initCompletes : Obligations.InitCompletes := by
  intro s ha hrst
  obtain ⟨-, hinit, -⟩ := (accepts_iff s).1 ha
  refine ⟨_, _, (exec_init s).trans (accept_of_accepts ha _ _), runs_init hrst rfl rfl, ?_, rfl, rfl, rfl, rfl, rfl, rfl, rfl,
    rfl⟩
  exact ⟨rfl, rfl, rfl, rfl, hinit.symm, rfl, rfl, rfl, rfl⟩

/-- The pattern of a control byte has bit 7 set (R55). -/
theorem ctrlByte_getLsbD_seven (v : BitVec 3) : (ctrlByte v).getLsbD 7 = true := by
  revert v; decide

/-- Settles O22: one frame that stands alone; the last bit sent is bit 7 of a control byte. -/
theorem setBrightnessCompletes : Obligations.SetBrightnessCompletes := by
  intro level s ha hrst
  obtain ⟨u, hruns, hdone, -, hch, hpos⟩ := runs_startFrame hrst 0b011 (brightnessByte level)
  have hlines := hdone.lines.trans (levelsAfter_sendEvents s.lines _)
  rw [brightnessByte, ctrlByte_getLsbD_seven] at hlines
  rw [← brightnessByte_eq_add]
  exact ⟨_, u, (exec_setBrightness s level).trans (accept_of_accepts ha _ _), rfl, rfl, hruns, hdone, hdone.accepts ha, hlines,
    hch, hpos⟩

/-- A row byte has its dots in bits 4 to 0 (R61). -/
theorem rowByte_getLsbD_seven (ch : CharCode) (r : Fin Config.nRows) : (rowByte ch r).getLsbD 7 = false := by
  simp [rowByte]

/-- A glyph render ends with a row, so with DATA at 0 (R106). -/
theorem levelsAfter_glyphFrames (ls : Lines) (ch : CharCode) (pos : Position) :
    levelsAfter ls ((glyphFrames ch pos).flatMap sendEvents) = ⟨true, false, false, ls.reset⟩ := by
  have hlast : ((List.finRange 7).map (rowByte ch)).getLastD (addrEncode pos) = rowByte ch 6 := rfl
  rw [glyphFrames_eq, levelsAfter_frames, hlast, rowByte_getLsbD_seven]

/-- Settles O20: the one glyph render it starts, with nothing to follow it. -/
theorem renderCharCompletes : Obligations.RenderCharCompletes := by
  intro ch pos s ha hrst
  obtain ⟨u, hruns, hdone⟩ := runs_startGlyphs hrst 0b001 ch pos
  exact ⟨_, u, (exec_renderChar s ch pos).trans (accept_of_accepts ha _ _), rfl, rfl, hruns, hdone, hdone.accepts ha,
    hdone.lines.trans (levelsAfter_glyphFrames s.lines ch pos)⟩

end Sys2Proof.Machine

/-! ## Decode and encode (O1, O50, O2)

A byte has one of the three wire formats exactly when it is made from that format's field (`isAddrByte_iff`, `isRowByte_iff`,
`isCtrlByte_iff`), so what the transmitter's port can carry is listed by `decodeStart_cases`. -/

namespace Sys2Proof.Machine

open Sys2Proof

/-! ### A byte of a format is made from its field -/

/-- A byte is its bits under a mask together with the bits the mask leaves out. -/
theorem and_or_and_of_or_eq_allOnes {m m' : Byte} (hm : m ||| m' = BitVec.allOnes 8) (b : Byte) : b &&& m ||| b &&& m' = b := by
  rw [← BitVec.and_or_distrib_left, hm, BitVec.and_allOnes]

/-- A field of the `k` low bits of a byte is the byte under the mask of those bits. -/
theorem zeroExtend_extract_low (b : Byte) {k : Nat} (hk : k ≤ 8) :
    (b.extractLsb' 0 k).zeroExtend 8 = b &&& BitVec.ofNat 8 (2 ^ k - 1) := by
  have hpow : 2 ^ k ≤ 256 := Nat.pow_le_pow_right (by decide) hk
  have hfield : b.toNat % 2 ^ k < 2 ^ k := Nat.mod_lt _ (Nat.two_pow_pos k)
  have hmask : (2 ^ k - 1) % 256 = 2 ^ k - 1 := Nat.mod_eq_of_lt (by omega)
  apply BitVec.eq_of_toNat_eq
  simp [hmask, Nat.and_two_pow_sub_one_eq_mod]
  omega

theorem isAddrByte_iff {b : Byte} : isAddrByte b = true ↔ ∃ digit, b = addrByte digit := by
  refine ⟨fun h => ⟨b.extractLsb' 0 3, ?_⟩, ?_⟩
  · rw [addrByte, zeroExtend_extract_low b (by omega), ← beq_iff_eq.1 h]
    exact (and_or_and_of_or_eq_allOnes rfl b).symm
  · rintro ⟨digit, rfl⟩
    revert digit; decide

theorem isRowByte_iff {b : Byte} : isRowByte b = true ↔ ∃ dots, b = rowWireByte dots := by
  refine ⟨fun h => ⟨b.extractLsb' 0 5, ?_⟩, ?_⟩
  · have hsplit := and_or_and_of_or_eq_allOnes (m := 0xE0#8) (m' := 0x1F#8) rfl b
    rw [beq_iff_eq.1 h, BitVec.zero_or] at hsplit
    exact hsplit.symm.trans (zeroExtend_extract_low b (k := 5) (by omega)).symm
  · rintro ⟨dots, rfl⟩
    revert dots; decide

theorem isCtrlByte_iff {b : Byte} : isCtrlByte b = true ↔ ∃ level, b = ctrlByte level := by
  refine ⟨fun h => ⟨b.extractLsb' 0 3, ?_⟩, ?_⟩
  · rw [ctrlByte, zeroExtend_extract_low b (by omega), ← beq_iff_eq.1 h]
    exact (and_or_and_of_or_eq_allOnes rfl b).symm
  · rintro ⟨level, rfl⟩
    revert level; decide

/-! ### What stands at the transmitter's port -/

theorem decodeStart_addrByte (digit : BitVec 3) : decodeStart (addrByte digit) = .addrFrame digit := by
  revert digit; decide

theorem decodeStart_rowWireByte (dots : BitVec 5) : decodeStart (rowWireByte dots) = .rowFrame dots := by
  revert dots; decide

theorem decodeStart_ctrlByte (level : BitVec 3) : decodeStart (ctrlByte level) = .ctrlFrame level := by
  revert level; decide

theorem hasWireFormat_iff {b : Byte} :
    hasWireFormat b = true ↔ (∃ digit, b = addrByte digit) ∨ (∃ dots, b = rowWireByte dots) ∨ ∃ level, b = ctrlByte level := by
  simp only [hasWireFormat, Bool.or_eq_true, isAddrByte_iff, isRowByte_iff, isCtrlByte_iff, or_assoc]

theorem decodeStart_of_no_format {b : Byte} (h : hasWireFormat b = false) : decodeStart b = .send b := by
  simp only [hasWireFormat, Bool.or_eq_false_iff] at h
  obtain ⟨⟨haddr, hrow⟩, hctrl⟩ := h
  simp [decodeStart, haddr, hrow, hctrl]

/-- A byte at the transmitter is a frame of one format, with its field, or SEND of a byte of none (R53 to R55, R84). -/
theorem decodeStart_cases (b : Byte) :
    (∃ digit, b = addrByte digit ∧ decodeStart b = .addrFrame digit) ∨
    (∃ dots, b = rowWireByte dots ∧ decodeStart b = .rowFrame dots) ∨
    (∃ level, b = ctrlByte level ∧ decodeStart b = .ctrlFrame level) ∨
    (hasWireFormat b = false ∧ decodeStart b = .send b) := by
  cases h : hasWireFormat b with
  | true =>
    obtain ⟨digit, rfl⟩ | ⟨dots, rfl⟩ | ⟨level, rfl⟩ := hasWireFormat_iff.1 h
    · exact .inl ⟨digit, rfl, decodeStart_addrByte digit⟩
    · exact .inr (.inl ⟨dots, rfl, decodeStart_rowWireByte dots⟩)
    · exact .inr (.inr (.inl ⟨level, rfl, decodeStart_ctrlByte level⟩))
  | false => exact .inr (.inr (.inr ⟨rfl, decodeStart_of_no_format h⟩))

/-! ### There and back -/

theorem decode_encode {i : Instr} (h : i.wellFormed = true) : decode (encode i) = i := by
  cases i with
  | addrFrame digit => exact decodeStart_addrByte digit
  | rowFrame dots => exact decodeStart_rowWireByte dots
  | ctrlFrame level => exact decodeStart_ctrlByte level
  | send b => exact decodeStart_of_no_format (by simpa [Instr.wellFormed] using h)
  | init => exact (CommandReads.init rfl).decode_eq
  | renderChar => exact (CommandReads.renderChar rfl).decode_eq
  | renderText => exact (CommandReads.renderText rfl).decode_eq
  | setBrightness => exact (CommandReads.setBrightness rfl).decode_eq
  | clear => exact (CommandReads.clear rfl).decode_eq
  | reserved101 => exact (CommandReads.reserved101 rfl).decode_eq
  | reserved110 => exact (CommandReads.reserved110 rfl).decode_eq
  | reserved111 => exact (CommandReads.reserved111 rfl).decode_eq
  | lookup | addrEncode => rfl

theorem CommandReads.wellFormed {p : CmdPins} {i : Instr} (h : CommandReads p i) : i.wellFormed = true := by
  cases h <;> rfl

theorem decode_wellFormed (p : PortInput) : (decode p).wellFormed = true := by
  cases p with
  | command pins => exact (commandReads_decode pins).wellFormed
  | txStart b =>
    show (decodeStart b).wellFormed = true
    obtain ⟨digit, -, h⟩ | ⟨dots, -, h⟩ | ⟨level, -, h⟩ | ⟨hnone, h⟩ := decodeStart_cases b
    · rw [h]; rfl
    · rw [h]; rfl
    · rw [h]; rfl
    · rw [h, Instr.wellFormed, hnone]; rfl
  | romPort | addrPort => rfl

theorem encode_decodeStart (b : Byte) : encode (decodeStart b) = .txStart b := by
  obtain ⟨digit, rfl, h⟩ | ⟨dots, rfl, h⟩ | ⟨level, rfl, h⟩ | ⟨-, h⟩ := decodeStart_cases b <;> rw [h] <;> rfl

/-- Settles O1: the command codes by `CommandReads`, the transmitter's bytes by `decodeStart_cases`. -/
theorem decodeEncodeAgree : Obligations.DecodeEncodeAgree :=
  ⟨fun _ => decode_encode, decode_wellFormed, encode_decodeStart⟩

/-! ### Bare words of the opcode table -/

theorem addrByte_eq_add (digit : BitVec 3) : addrByte digit = BitVec.ofNat 8 (0xA0 + digit.toNat) := by
  revert digit; decide

theorem rowWireByte_eq_ofNat (dots : BitVec 5) : rowWireByte dots = BitVec.ofNat 8 dots.toNat := by
  revert dots; decide

theorem decodeWord_command {nbits w : Nat} (hw : w < 8) :
    decodeWord nbits w = .ok (.command (barePins (BitVec.ofNat 3 w))) := by
  simp [decodeWord, hw]

theorem decodeWord_byte {nbits w : Nat} (hlo : 8 ≤ w) (hhi : w ≤ 0xFF) (hn : nbits ≤ 8) :
    decodeWord nbits w =
      if hasWireFormat (BitVec.ofNat 8 w) then .ok (.txStart (BitVec.ofNat 8 w)) else .error .neverSent := by
  have hw : ¬ w < 8 := Nat.not_lt_of_le hlo
  have hbyte : w < 256 := Nat.lt_succ_of_le hhi
  simp [decodeWord, hw, hbyte, hn]

theorem decodeWord_wide {nbits w : Nat} (hlo : 8 ≤ w) (hwide : 8 < nbits ∨ 0xFF < w) :
    decodeWord nbits w = .error .tooWide := by
  have hw : ¬ w < 8 := Nat.not_lt_of_le hlo
  have hfits : ¬ (nbits ≤ 8 ∧ w < 256) := by omega
  simp [decodeWord, hw, hfits]

theorem decodeTableWord_of_ok {nbits w : Nat} {p : PortInput} (h : decodeWord nbits w = .ok p) :
    decodeTableWord nbits w = some (decode p) := by
  simp [decodeTableWord, h]

theorem decodeTableWord_of_error {nbits w : Nat} {r : DecodeError} (h : decodeWord nbits w = .error r) :
    decodeTableWord nbits w = none := by
  simp [decodeTableWord, h]

/-- A word that is a byte of one of the formats reads as that byte at the transmitter's port. -/
theorem decodeTableWord_byte {nbits w : Nat} {b : Byte} (hlo : 8 ≤ w) (hhi : w ≤ 0xFF) (hn : nbits ≤ 8)
    (hb : b = BitVec.ofNat 8 w) (hformat : hasWireFormat b = true) : decodeTableWord nbits w = some (decodeStart b) := by
  subst hb
  exact decodeTableWord_of_ok ((decodeWord_byte hlo hhi hn).trans (if_pos hformat))

/-- A word outside the 48 values of R56 has none of the formats. -/
theorem hasWireFormat_ofNat_eq_false {w : Nat}
    (hw : 0x20 ≤ w ∧ w ≤ 0x9F ∨ 0xA8 ≤ w ∧ w ≤ 0xDF ∨ 0xE8 ≤ w ∧ w ≤ 0xFF) : hasWireFormat (BitVec.ofNat 8 w) = false := by
  rw [← Bool.not_eq_true, hasWireFormat_iff]
  rintro (⟨digit, h⟩ | ⟨dots, h⟩ | ⟨level, h⟩)
  · rw [addrByte_eq_add] at h
    bv_omega
  · rw [rowWireByte_eq_ofNat] at h
    bv_omega
  · rw [ctrlByte_eq_add] at h
    bv_omega

/-- Settles O50, range by range: a command code, the three formats, the bytes of none of them, and what is no byte. -/
theorem tableWordsRead : Obligations.TableWordsRead := by
  intro nbits w
  refine ⟨fun hw => ?_, fun hlo hhi hn => ?_, fun hlo hhi hn => ?_, fun hlo hhi hn => ?_, fun hw hn => ?_, fun hlo hwide => ?_⟩
  · exact decodeTableWord_of_ok (decodeWord_command hw)
  · rw [← decodeStart_rowWireByte]
    refine decodeTableWord_byte hlo (by omega) hn ?_ (hasWireFormat_rowWireByte _)
    rw [rowWireByte_eq_ofNat]
    bv_omega
  · rw [← decodeStart_addrByte]
    refine decodeTableWord_byte (by omega) (by omega) hn ?_ (hasWireFormat_addrByte _)
    rw [addrByte_eq_add]
    bv_omega
  · rw [← decodeStart_ctrlByte]
    refine decodeTableWord_byte (by omega) (by omega) hn ?_ (hasWireFormat_ctrlByte _)
    rw [ctrlByte_eq_add]
    bv_omega
  · have hreject : decodeWord nbits w = .error .neverSent := by
      rw [decodeWord_byte (by omega) (by omega) hn, hasWireFormat_ofNat_eq_false hw]
      rfl
    exact ⟨hreject, decodeTableWord_of_error hreject⟩
  · exact ⟨decodeWord_wide hlo hwide, decodeTableWord_of_error (decodeWord_wide hlo hwide)⟩

/-- Settles O2, by the row of the opcode table each word belongs to. -/
theorem decodeKnownWords : Obligations.DecodeKnownWords := by
  unfold Obligations.DecodeKnownWords
  decide

end Sys2Proof.Machine

/-! ## What LOOKUP reads and what is sent of it (O5, O9, O10, O11, O12)

A row byte is the five dots of the row (`rowByte_eq_dots`), and the 92 bitmaps differ in their dots (R79), so they differ as stored
and as sent. -/

namespace Sys2Proof.Machine

open Sys2Proof

/-! ### The 92 bitmaps -/

/-- R79: the table is one whose 92 bitmaps that LOOKUP can return are pairwise distinct. -/
theorem glyphRow_injective {k k' : Fin Config.nReachable}
    (h : ∀ r, Config.glyphRow (k.castLE (by decide)) r = Config.glyphRow (k'.castLE (by decide)) r) : k = k' :=
  Config.glyphs.distinct k k' h

/-- R80: the space is blank, whatever the free rows of the table are. -/
@[simp] theorem glyphRow_space (r : Fin Config.nRows) : Config.glyphRow 0 r = 0 := rfl

theorem dots_zeroExtend_injective {dots dots' : BitVec Config.nCols} (h : dots.zeroExtend 8 = dots'.zeroExtend 8) :
    dots = dots' := by
  have hwidth : (dots.zeroExtend 8).setWidth 5 = (dots'.zeroExtend 8).setWidth 5 := by rw [h]
  simpa using hwidth

/-- A stored byte shifted to wire format is the dots of its row (R61, R72). -/
theorem romByte_glyph_ushiftRight (k : Fin Config.nReachable) (r : Fin 7) (h : 7 * k.val + r.val < 665) :
    Config.romByte (⟨7 * k.val + r.val, h⟩ : Fin 665) >>> 3 = (Config.glyphRow (k.castLE (by decide)) r).zeroExtend 8 := by
  have hstored : Config.romByte (⟨7 * k.val + r.val, h⟩ : Fin 665) = _ := romByte_glyph (k.castLE (by decide)) r h
  rw [hstored, dots_shifted_ushiftRight]

/-- Settles O5: two bitmaps differ in the dots of some row, which are the row as sent, so that the stored bytes differ too. -/
theorem glyphsDistinctSpaceBlank : Obligations.GlyphsDistinctSpaceBlank := by
  refine ⟨fun k k' hne => ?_, fun r => ?_⟩
  · obtain ⟨r, hr⟩ := not_forall.1 (mt glyphRow_injective hne)
    have hlt : r.val < 7 := r.isLt
    have hsent : Config.romByte (⟨7 * k.val + r.val, by omega⟩ : Fin 665) >>> 3 ≠
        Config.romByte (⟨7 * k'.val + r.val, by omega⟩ : Fin 665) >>> 3 := by
      rw [romByte_glyph_ushiftRight, romByte_glyph_ushiftRight]
      exact mt dots_zeroExtend_injective hr
    exact ⟨r, fun hstored => hsent (by rw [hstored]), hsent⟩
  · have hrow := romByte_glyph 0 r (by omega)
    rw [glyphRow_space] at hrow
    simpa using hrow

/-! ### The bitmap of a character -/

/-- The place of a character's bitmap among the 92 (R65, R74). -/
def glyphNumber (ch : CharCode) : Fin Config.nReachable :=
  ⟨(subst ch).toNat - 0x20, by
    have h := subst_range ch
    show _ < 92
    omega⟩

theorem subst_eq_of_glyphNumber_eq {ch ch' : CharCode} (h : glyphNumber ch = glyphNumber ch') : subst ch = subst ch' := by
  have hval : (subst ch).toNat - 0x20 = (subst ch').toNat - 0x20 := congrArg Fin.val h
  have hch := subst_range ch
  have hch' := subst_range ch'
  apply BitVec.eq_of_toNat_eq
  omega

theorem rowByte_eq_dots (ch : CharCode) (r : Fin Config.nRows) :
    rowByte ch r = (Config.glyphRow ((glyphNumber ch).castLE (by decide)) r).zeroExtend 8 := by
  have hlt : 7 * (glyphNumber ch).val + r.val < 665 := by
    have hn : (glyphNumber ch).val < 92 := (glyphNumber ch).isLt
    have hr : r.val < 7 := r.isLt
    omega
  have hindex : romIndex ch r = ⟨7 * (glyphNumber ch).val + r.val, hlt⟩ :=
    Fin.ext ((romIndex_val ch r).trans (by rw [Nat.mul_comm]; rfl))
  rw [rowByte, glyphRomQ, hindex, romByte_glyph_ushiftRight]

theorem lookup_length (ch : CharCode) : (lookup ch).length = 7 := by simp [lookup]

theorem lookup_getElem? (ch : CharCode) (r : Fin 7) : (lookup ch)[r.val]? = some (Config.romByte (romIndex ch r)) := by
  simp [lookup, glyphRomQ]

/-- Settles O9, with the index of each row from R65. -/
theorem lookupReturnsBitmap : Obligations.LookupReturnsBitmap := by
  intro ch s
  refine ⟨lookup ch, rfl, lookup_length ch, fun r => ⟨romIndex ch r, ?_, lookup_getElem? ch r⟩⟩
  rw [romIndex_val, subst_toNat]

/-! ### The frames of a character -/

theorem glyphFrames_subst (ch : CharCode) (pos : Position) : glyphFrames (subst ch) pos = glyphFrames ch pos := by
  rw [glyphFrames, lookup_subst, ← glyphFrames]

theorem lookup_space : lookup 0x20 = [0, 0, 0, 0, 0, 0, 0] := by decide

theorem glyphFrames_space (pos : Position) : glyphFrames 0x20 pos = [addrEncode pos, 0, 0, 0, 0, 0, 0, 0] := by
  rw [glyphFrames, lookup_space]
  rfl

/-- Settles O10: such a code becomes the space (R74). -/
theorem outOfRangeIsSpace : Obligations.OutOfRangeIsSpace := by
  intro ch pos hout
  have hspace : glyphFrames ch pos = glyphFrames 0x20 pos := by rw [← glyphFrames_subst ch, subst_eq_space hout]
  exact ⟨hspace, hspace.trans (glyphFrames_space pos)⟩

theorem rowByte_eq_of_glyphFrames_eq {ch ch' : CharCode} {pos pos' : Position} (h : glyphFrames ch pos = glyphFrames ch' pos')
    (r : Fin Config.nRows) : rowByte ch r = rowByte ch' r := by
  have hget : (glyphFrames ch pos)[r.val + 1]? = (glyphFrames ch' pos')[r.val + 1]? := by rw [h]
  rw [glyphFrames_getElem?_row r.isLt, glyphFrames_getElem?_row r.isLt] at hget
  exact Option.some.inj hget

/-- Settles O11: equal rows are equal dots, so the same of the 92 bitmaps, and codes in the range are not substituted. -/
theorem passedGlyphsDiffer : Obligations.PassedGlyphsDiffer := by
  intro ch ch' pos pos' hlo hhi hlo' hhi' h
  have hdots (r : Fin Config.nRows) := rowByte_eq_of_glyphFrames_eq h r
  simp only [rowByte_eq_dots] at hdots
  have hnumber : glyphNumber ch = glyphNumber ch' := glyphRow_injective fun r => dots_zeroExtend_injective (hdots r)
  have hsubst := subst_eq_of_glyphNumber_eq hnumber
  rwa [subst_eq_self hlo hhi, subst_eq_self hlo' hhi'] at hsubst

/-- Settles O12, from the closed form of ADDR_ENCODE. -/
theorem addrEncodeReturnsByte : Obligations.AddrEncodeReturnsByte := by
  intro pos s
  rw [← addrEncode_eq_ite]
  rfl

end Sys2Proof.Machine

/-! ## What an instruction answers (O26, O25, O18)

Every meaning is a next state, so `ExecEffect` says all an instruction can do; where the block does not accept, a command does
nothing, and while an operation is in progress a `start` does nothing. -/

namespace Sys2Proof.Machine

open Sys2Proof

theorem exec_answers (i : Instr) (s : State) : ∃ t, exec i s = .next t := by
  cases i with
  | renderText text =>
    cases text with
    | nil => exact ⟨s, rfl⟩
    | cons => exact ⟨_, rfl⟩
  | _ => exact ⟨_, rfl⟩

theorem ExecEffect.keeps {s t : State} (h : ExecEffect s t) :
    t.earlier = s.earlier ∧ t.initialized = s.initialized ∧ t.rstN = s.rstN := by
  cases h <;> exact ⟨rfl, rfl, rfl⟩

/-- Settles O26: no effect of an instruction touches the lines, the trace, the pins or the ports. -/
theorem execNeverFails : Obligations.ExecNeverFails := by
  intro i s
  obtain ⟨t, ht⟩ := exec_answers i s
  have heffect := exec_effect ht
  obtain ⟨hlines, htrace⟩ := heffect.lines_trace
  obtain ⟨hearlier, hinit, hrst⟩ := heffect.keeps
  exact ⟨t, ht, hlines, htrace, hearlier, hinit, hrst, heffect.pending⟩

theorem accept_of_not_accepts {s : State} (ha : s.accepts = false) (op : BitVec 3) (f : State → State) :
    accept s op f = .next s := by
  simp [accept, ha]

/-- A step that is no acceptance leaves the inputs where they stand (R118, R141). -/
theorem step_pending_of_ne_idle {s t : State} (hp : s.phase ≠ .idle) (h : step s = .next t) : t.pending = s.pending := by
  obtain ⟨-, rfl⟩ | ⟨-, -, hseq⟩ | ⟨-, hidle, -⟩ | ⟨p, rest, -, hidle, -⟩ := step_cases h
  · rfl
  · exact sequence_pending hseq
  · exact absurd hidle hp
  · exact absurd hidle hp

/-- Settles O25: the five commands go through the handshake of R118, an empty text does nothing at all. -/
theorem commandsWaitWhileBusy : Obligations.CommandsWaitWhileBusy := by
  refine ⟨fun s ha => ⟨?_, ?_, fun ch pos => ?_, fun text start => ?_, fun level => ?_⟩, fun s t => step_pending_of_ne_idle⟩
  · rw [exec_init, accept_of_not_accepts ha]
  · rw [exec_clear, accept_of_not_accepts ha]
  · rw [exec_renderChar, accept_of_not_accepts ha]
  · cases text with
    | nil => exact exec_renderText_nil s start
    | cons => rw [exec_renderText_cons, accept_of_not_accepts ha]
  · rw [exec_setBrightness, accept_of_not_accepts ha]

theorem startTx_of_ne_idle {s : State} (hp : s.phase ≠ .idle) (b : Byte) : startTx s b = .next s := by
  simp [startTx, State.txFree, hp]

/-- Settles O18: SEND and the three formatted frames are a `start` of the transmitter. -/
theorem startWaitsWhileBusy : Obligations.StartWaitsWhileBusy :=
  fun _ hp => ⟨fun b => startTx_of_ne_idle hp b, fun d => startTx_of_ne_idle hp (addrByte d),
    fun p => startTx_of_ne_idle hp (rowWireByte p), fun v => startTx_of_ne_idle hp (ctrlByte v)⟩

end Sys2Proof.Machine

/-! ## One step of the machine (O31, O32, O24, O35, O42)

The branches of `step` outside an operation as equations; those inside one stand above (`step_init_event` to
`step_frame_end`). -/

namespace Sys2Proof.Machine

open Sys2Proof

theorem step_of_reset {s : State} (hrst : s.rstN = false) : step s = .next s.hardwareReset := if_pos hrst

section
variable {s : State} (hrst : s.rstN = true) (hp : s.phase = .idle)
include hrst hp

theorem step_of_nothing_presented (hpend : s.pending = []) : step s = .next s := by
  simp [step, hrst, hp, hpend]

theorem step_of_takes {p : PortInput} {rest : List PortInput} (hpend : s.pending = p :: rest) (htakes : s.takes p = true) :
    step s = exec (decode p) { s with pending := rest } := by
  simp [step, hrst, hp, hpend, htakes]

theorem step_of_not_takes {p : PortInput} {rest : List PortInput} (hpend : s.pending = p :: rest) (htakes : s.takes p = false) :
    step s = .next s := by
  simp [step, hrst, hp, hpend, htakes]

end

/-- Settles O31: the idle block's step with an input its port takes. -/
theorem stepRunsDecoded : Obligations.StepRunsDecoded :=
  fun _ _ _ hrst hp hpend htakes => step_of_takes hrst hp hpend htakes

/-- Settles O32: the idle block's step with empty ports. -/
theorem stepWaitsWhenIdle : Obligations.StepWaitsWhenIdle :=
  fun _ hrst hp hpend => step_of_nothing_presented hrst hp hpend

/-- The codes from 5 on are the reserved ones (R68), and they do nothing. -/
theorem CommandReads.exec_of_reserved {p : CmdPins} {i : Instr} (h : CommandReads p i) (hop : 5 ≤ p.op.toNat) (s : State) :
    exec i s = .next s := by
  cases h with
  | reserved101 | reserved110 | reserved111 => rfl
  | init h | renderChar h | renderText h | setBrightness h | clear h =>
    rw [h] at hop
    exact absurd hop (by decide)

/-- Settles O24: the ready block takes the code from the port, and it is one of the reserved ones. -/
theorem reservedCodesConsumed : Obligations.ReservedCodesConsumed := by
  refine ⟨fun s => ⟨rfl, rfl, rfl⟩, fun s p rest ha hrst hop hpend => ?_⟩
  rw [step_of_takes hrst (phase_idle_of_accepts ha) hpend ha]
  exact (commandReads_decode p).exec_of_reserved hop _

/-- Settles O35: the state hardware reset makes of any other (R32). -/
theorem hardwareResetTakesOver : Obligations.HardwareResetTakesOver :=
  fun s hrst => ⟨s.hardwareReset, step_of_reset hrst, rfl, rfl, rfl, rfl, rfl, rfl, rfl, rfl,
    List.append_nil _, rfl, hrst⟩

/-- The idle block goes on whatever stands at the ports. -/
theorem goesOn_of_idle {s : State} (hrst : s.rstN = true) (hp : s.phase = .idle) : goesOn s := by
  cases hpend : s.pending with
  | nil => exact ⟨s, step_of_nothing_presented hrst hp hpend⟩
  | cons p rest =>
    cases htakes : s.takes p with
    | false => exact ⟨s, step_of_not_takes hrst hp hpend htakes⟩
    | true =>
      obtain ⟨t, ht⟩ := exec_answers (decode p) { s with pending := rest }
      exact ⟨t, (step_of_takes hrst hp hpend htakes).trans ht⟩

theorem goesOn_of_init {s : State} (hrst : s.rstN = true) (hp : s.phase = .init) (hev : s.ev ≤ 2) : goesOn s := by
  obtain hlt | hlast := Nat.lt_or_eq_of_le hev
  · exact ⟨_, step_init_event hrst hp (List.getElem?_eq_getElem (Nat.lt_succ_of_lt hlt)) hlt.ne⟩
  · exact ⟨_, step_init_end hrst hp hlast⟩

theorem goesOn_of_run {s : State} (hrst : s.rstN = true) (hp : s.phase = .run) (hev : s.ev ≤ 25) : goesOn s := by
  obtain hlt | hlast := Nat.lt_or_eq_of_le hev
  · obtain ⟨e, he⟩ := frameEvent_some (b := s.curByte) hev
    exact ⟨_, step_frame_event hrst hp he hlt⟩
  · exact ⟨_, step_frame_end hrst hp hlast⟩

/-- Settles O42: the invariant keeps `ev` in the range of its phase (R21), where every position has an event. -/
theorem stepNeverStops : Obligations.StepNeverStops := by
  intro s hinv
  have hpos := hinv.position
  cases hrst : s.rstN with
  | false => exact ⟨_, step_of_reset hrst⟩
  | true =>
    cases hp : s.phase with
    | idle => exact goesOn_of_idle hrst hp
    | init =>
      obtain ⟨-, hev⟩ : _ ∧ s.ev ≤ 2 := by simpa [positionOk, hp] using hpos
      exact goesOn_of_init hrst hp hev
    | run =>
      obtain ⟨-, hev⟩ : _ ∧ s.ev ≤ 25 := by simpa [positionOk, hp] using hpos
      exact goesOn_of_run hrst hp hev

end Sys2Proof.Machine

/-! ## What a step keeps and what it adds (O33, O34, O38)

The event of a step is the one its position selects (`sequence_performs`); the other registers outside the sequencer stay, but for
`initialized`, which the end of INIT sets (`sequence_initialized`). -/

namespace Sys2Proof.Machine

open Sys2Proof

theorem lineLevel_applyEvent_same (ls : Lines) (e : LineEvent) : lineLevel (applyEvent ls e) e.line = e.level := by
  obtain ⟨line, level⟩ := e
  cases line <;> rfl

theorem sequence_keeps {s t : State} (h : s.sequence = .next t) :
    t.earlier = s.earlier ∧ t.rstN = s.rstN ∧ t.op = s.op ∧ t.answer = s.answer := by
  obtain ⟨-, rfl⟩ | ⟨e, -, -, -, rfl⟩ | ⟨e, -, -, -, rfl⟩ | ⟨e, -, -, -, rfl⟩ | ⟨e, -, -, -, rfl⟩ := sequence_cases h <;> simp

theorem sequence_initialized {s t : State} (h : s.sequence = .next t) :
    t.initialized = s.initialized ∨ s.phase = .init ∧ s.ev = 2 ∧ t.initialized = true := by
  obtain ⟨-, rfl⟩ | ⟨e, hp, -, hev, rfl⟩ | ⟨e, -, -, -, rfl⟩ | ⟨e, -, -, -, rfl⟩ | ⟨e, -, -, -, rfl⟩ := sequence_cases h
  · exact .inl rfl
  · exact .inr ⟨hp, hev, rfl⟩
  · exact .inl rfl
  · exact .inl rfl
  · exact .inl (State.closeFrame_initialized _)

/-- Settles O33: such a step is a step of the sequencer, which performs the next event. -/
theorem stepPerformsOneEvent : Obligations.StepPerformsOneEvent := by
  intro s t hrst hp hstep
  have hseq : s.sequence = .next t := (step_of_ne_idle hrst hp).symm.trans hstep
  obtain ⟨e, -, hlines, htrace⟩ := sequence_performs hp hseq
  obtain ⟨hearlier, hrstN, hop, hanswer⟩ := sequence_keeps hseq
  refine ⟨e, htrace, ?_, fun l hl => ?_, hearlier, hrstN, sequence_pending hseq, hop, hanswer⟩
  · rw [hlines, lineLevel_applyEvent_same]
  · rw [hlines, lineLevel_applyEvent_of_ne hl.symm]

/-- Settles O34: hardware reset moves the trace to `earlier`; every other step leaves `earlier` and adds to the trace its one
event or nothing. -/
theorem eventsNeverLost : Obligations.EventsNeverLost := by
  intro s t hstep
  obtain ⟨-, rfl⟩ | ⟨-, hp, hseq⟩ | ⟨-, -, rfl, -⟩ | ⟨p, rest, -, -, -, -, hexec⟩ := step_cases hstep
  · exact ⟨[], rfl, Nat.zero_le 1⟩
  · obtain ⟨e, -, -, htrace⟩ := sequence_performs hp hseq
    obtain ⟨hearlier, -⟩ := sequence_keeps hseq
    exact ⟨[e], by rw [State.performed, State.performed, hearlier, htrace, List.append_assoc], Nat.le_refl 1⟩
  · exact ⟨[], (List.append_nil _).symm, Nat.zero_le 1⟩
  · have heffect := exec_effect hexec
    obtain ⟨-, htrace⟩ := heffect.lines_trace
    obtain ⟨hearlier, -⟩ := heffect.keeps
    exact ⟨[], by rw [State.performed, State.performed, hearlier, htrace, List.append_nil], Nat.zero_le 1⟩

/-- What a step does to `initialized` (R19): hardware reset clears it, the end of INIT sets it. -/
theorem step_initialized {s t : State} (h : step s = .next t) :
    (s.rstN = false ∧ t.initialized = false) ∨ t.initialized = s.initialized ∨
    (s.rstN = true ∧ s.phase = .init ∧ s.ev = 2 ∧ t.initialized = true) := by
  obtain ⟨hrst, rfl⟩ | ⟨hrst, -, hseq⟩ | ⟨-, -, rfl, -⟩ | ⟨p, rest, -, -, -, -, hexec⟩ := step_cases h
  · exact .inl ⟨hrst, rfl⟩
  · exact .inr ((sequence_initialized hseq).imp_right fun hend => ⟨hrst, hend⟩)
  · exact .inr (.inl rfl)
  · obtain ⟨-, hinit, -⟩ := (exec_effect hexec).keeps
    exact .inr (.inl hinit)

/-- Settles O38, by the three things a step can do to `initialized`. -/
theorem initializedChanges : Obligations.InitializedChanges := by
  intro s t hstep
  obtain ⟨hrst, hcleared⟩ | hsame | ⟨hrst, hp, hev, hset⟩ := step_initialized hstep
  · simp [hrst, hcleared]
  · simp +contextual [hsame]
  · simp [hrst, hp, hev, hset]

end Sys2Proof.Machine

/-! ## The position counter (O46)

A glyph render starts with the renders to follow it at consecutive positions, whichever command starts it, and the end of a render
takes the first of them. -/

namespace Sys2Proof.Machine

open Sys2Proof

/-! ### Renders that start -/

theorem consecutive_textRenders (text : List CharCode) (pos : Position) : consecutive pos (textRenders text (pos + 1)) := by
  induction text generalizing pos with
  | nil => trivial
  | cons c cs ih => exact ⟨rfl, ih (pos + 1)⟩

theorem consecutive_clearRest : consecutive 0 clearRest := by
  rw [clearRest_eq]
  exact ⟨rfl, rfl, rfl, rfl, rfl, rfl, rfl, trivial⟩

theorem positionsStep_of_phase_ne_run {s : State} (h : s.phase ≠ .run) : positionsStep s := fun _ hrun => absurd hrun h

theorem positionsStep_startFrame (s : State) (b : Byte) : positionsStep (s.startFrame b) := fun hglyph => nomatch hglyph

theorem positionsStep_startGlyphs {s : State} {ch : CharCode} {pos : Position} {todo : List (CharCode × Position)}
    (h : consecutive pos todo) : positionsStep (s.startGlyphs ch pos todo) := fun _ _ => h

/-- What holds before a command and after its start holds after it, accepted or not. -/
theorem accept_keeps {P : State → Prop} {s t : State} {op : BitVec 3} {f : State → State} (h : accept s op f = .next t)
    (hs : P s) (hf : P (f { s with op := op })) : P t := by
  obtain ⟨-, hacc⟩ | ⟨-, hrej⟩ := accept_cases s op f
  · cases hacc.symm.trans h
    exact hf
  · cases hrej.symm.trans h
    exact hs

theorem startTx_positionsStep {s t : State} {b : Byte} (h : startTx s b = .next t) (hs : positionsStep s) : positionsStep t := by
  obtain ⟨-, htaken⟩ | ⟨-, hrej⟩ := startTx_cases s b
  · cases htaken.symm.trans h
    exact positionsStep_startFrame s b
  · cases hrej.symm.trans h
    exact hs

theorem exec_positionsStep {i : Instr} {s t : State} (h : exec i s = .next t) (hs : positionsStep s) : positionsStep t := by
  cases i with
  | addrFrame | rowFrame | ctrlFrame | send => exact startTx_positionsStep h hs
  | init => exact accept_keeps h hs (positionsStep_of_phase_ne_run (by simp))
  | renderChar ch pos =>
    rw [exec_renderChar] at h
    exact accept_keeps h hs (positionsStep_startGlyphs trivial)
  | renderText text start =>
    cases text with
    | nil => cases h; exact hs
    | cons c cs =>
      rw [exec_renderText_cons] at h
      exact accept_keeps h hs (positionsStep_startGlyphs (consecutive_textRenders cs start))
  | setBrightness level =>
    rw [exec_setBrightness] at h
    exact accept_keeps h hs (positionsStep_startFrame _ _)
  | clear =>
    rw [exec_clear] at h
    exact accept_keeps h hs (positionsStep_startGlyphs consecutive_clearRest)
  | reserved101 | reserved110 | reserved111 => cases h; exact hs
  | lookup | addrEncode => cases h; exact hs

/-! ### Renders in progress -/

/-- What the end of a frame does to the position counter of a glyph render (R23, R117). -/
theorem closeFrame_positions {s : State} (hk : s.kind = .glyph) (h : consecutive s.curPos s.todo) :
    consecutive s.closeFrame.curPos s.closeFrame.todo ∧
    s.closeFrame.curPos = if 7 ≤ s.frame ∧ s.todo ≠ [] then s.curPos + 1 else s.curPos := by
  obtain ⟨hlt, -, hs⟩ | ⟨hlast, c, p, rest, htodo, hs⟩ | ⟨-, htodo, hs⟩ := closeFrame_cases s
  · rw [hs]
    exact ⟨h, (if_neg fun hend => absurd hlt (Nat.not_lt_of_le hend.1)).symm⟩
  · rw [htodo] at h
    obtain ⟨hp, hrest⟩ := h
    have hframe : 7 ≤ s.frame := Nat.le_of_not_lt fun hlt => hlast ⟨hk, hlt⟩
    rw [hs, htodo]
    exact ⟨hrest, hp.trans (if_pos ⟨hframe, List.cons_ne_nil _ _⟩).symm⟩
  · rw [hs]
    exact ⟨h, (if_neg fun hend => hend.2 htodo).symm⟩

theorem sequence_positionsStep {s t : State} (h : s.sequence = .next t) (hs : positionsStep s) : positionsStep t := by
  obtain ⟨-, rfl⟩ | ⟨e, hp, -, -, rfl⟩ | ⟨e, hp, -, -, rfl⟩ | ⟨e, hp, -, -, rfl⟩ | ⟨e, hp, -, -, rfl⟩ := sequence_cases h
  · exact hs
  · exact positionsStep_of_phase_ne_run (by simp)
  · exact positionsStep_of_phase_ne_run (by simp [hp])
  · exact hs
  · intro hk _
    have hk' : s.kind = .glyph := by simpa using hk
    obtain ⟨hpositions, -⟩ := closeFrame_positions (s := s.perform e) hk' (hs hk' hp)
    exact hpositions

theorem sequence_curPos {s t : State} (h : s.sequence = .next t) (hs : positionsStep s) (hk : s.kind = .glyph)
    (hrun : s.phase = .run) : t.curPos = if s.ev = 25 ∧ 7 ≤ s.frame ∧ s.todo ≠ [] then s.curPos + 1 else s.curPos := by
  obtain ⟨hp, -⟩ | ⟨e, hp, -⟩ | ⟨e, hp, -⟩ | ⟨e, -, -, hev, rfl⟩ | ⟨e, -, -, hev, rfl⟩ := sequence_cases h
  · simp [hrun] at hp
  · simp [hrun] at hp
  · simp [hrun] at hp
  · simp [hev.ne]
  · obtain ⟨-, hpos⟩ := closeFrame_positions (s := s.perform e) hk (hs hk hrun)
    exact hpos.trans (if_congr (by simp [hev]) rfl rfl)

/-- Settles O46: hardware reset ends the render; a render in progress goes on or ends by the sequencer; a render that starts is
in order. -/
theorem positionsStepKept : Obligations.PositionsStepKept := by
  intro s t hs hstep
  refine ⟨?_, fun hrst hk hrun => ?_⟩
  · obtain ⟨-, rfl⟩ | ⟨-, -, hseq⟩ | ⟨-, -, rfl, -⟩ | ⟨p, rest, -, -, -, -, hexec⟩ := step_cases hstep
    · exact positionsStep_of_phase_ne_run (by simp)
    · exact sequence_positionsStep hseq hs
    · exact hs
    · exact exec_positionsStep hexec hs
  · exact sequence_curPos ((step_of_ne_idle hrst (by simp [hrun])).symm.trans hstep) hs hk hrun

end Sys2Proof.Machine

/-! ## After reset and in idle (O36, O37, O40, O43) -/

namespace Sys2Proof.Machine

open Sys2Proof

/-- Settles O36: the INIT sequence that reset leaves in progress, from the levels of R32. -/
theorem automaticInit : Obligations.AutomaticInit :=
  fun _ => ⟨_, runs_init rfl rfl rfl, rfl, rfl, rfl, rfl, rfl, rfl⟩

/-- Settles O37: the first column of R32. -/
theorem resetValues : Obligations.ResetValues := ⟨rfl, rfl, rfl, rfl, rfl, rfl, rfl, rfl, rfl⟩

/-- Settles O40: reset stands at a boundary, with INIT still to perform. -/
theorem invAtReset : Obligations.InvAtReset := by
  have hbound : AtBoundary State.reset := ⟨rfl, rfl, Nat.zero_le _, rfl, rfl, rfl⟩
  exact hbound.machineInv rfl (.inr rfl)

/-- Settles O43: in idle the invariant gives the levels of a boundary, and INIT has ended. -/
theorem idleLevels : Obligations.IdleLevels := by
  intro s hinv hp
  have hbound := hinv.atBoundary_of_idle hp
  have hinit := hinv.initialized_of_ne_init (by simp [hp])
  have hbusy : s.busy = false := hinv.busy.trans (by simp [hp])
  exact ⟨hbound.load, hbound.clock, hbound.reset, by simp [State.cmdReady, hinit, hbusy]⟩

end Sys2Proof.Machine

/-! ## Whole operations (O14, O16, O17, O21, O23)

A frame that stands alone is `runs_startFrame`. The renders of a text follow one another: after one render the block starts the next
one from the state with the events performed (`runs_startGlyphs_cons`), and so on to the last (`runs_renders`). -/

namespace Sys2Proof.Machine

open Sys2Proof

/-! ### One frame on its own -/

/-- Settles O14: up to 25 the closed form gives the events of SEND in order (R85). -/
theorem frameEventClosedForm : Obligations.FrameEventClosedForm := by
  intro b
  refine List.ext_getElem (by rw [List.length_map, List.length_map, List.length_range, sendEvents_length]) fun k hk _ => ?_
  rw [List.length_map, List.length_range] at hk
  rw [List.getElem_map, List.getElem_map, List.getElem_range, frameEvent_eq_getElem? b (Nat.le_of_lt_succ hk)]
  exact List.getElem?_eq_getElem hk

theorem startTx_of_idle {s : State} (hp : s.phase = .idle) (b : Byte) : startTx s b = .next (s.startFrame b) := by
  simp [startTx, State.txFree, hp]

/-- A `start` that is taken: the frame in 26 steps, the lines as R86, and no register that the transmitter does not use. -/
theorem startTx_completes {s : State} (hp : s.phase = .idle) (hrst : s.rstN = true) (b : Byte) :
    ∃ t u, startTx s b = .next t ∧ runs 26 t = .next u ∧ Completed s u (sendEvents b) ∧
      u.lines = ⟨true, b.getLsbD 7, false, s.lines.reset⟩ ∧ u.op = s.op ∧ u.curCh = s.curCh ∧ u.curPos = s.curPos := by
  obtain ⟨u, hruns, hdone, hkept⟩ := runs_startFrame hrst s.op b
  exact ⟨_, u, startTx_of_idle hp b, hruns, hdone, hdone.lines.trans (levelsAfter_sendEvents s.lines b), hkept⟩

/-- Settles O16: SEND is a `start` of the transmitter, and its events are in the order of R84. -/
theorem sendCompletes : Obligations.SendCompletes :=
  fun b _ hp hrst => ⟨rfl, startTx_completes hp hrst b⟩

/-- Settles O17: a formatted frame is a `start` with the byte made from its field. -/
theorem formattedFramesComplete : Obligations.FormattedFramesComplete := by
  rintro s hp hrst i b (⟨digit, rfl, rfl⟩ | ⟨dots, rfl, rfl⟩ | ⟨level, rfl, rfl⟩)
  · rw [← addrByte_eq_add]
    exact startTx_completes hp hrst _
  · rw [← rowWireByte_eq_ofNat]
    exact startTx_completes hp hrst _
  · rw [← ctrlByte_eq_add]
    exact startTx_completes hp hrst _

/-! ### Glyph renders one after the other -/

/-- The frames of a list of glyph renders, in order (R106, R109). -/
def renderFrames (renders : List (CharCode × Position)) : List Byte := renders.flatMap (fun r => glyphFrames r.1 r.2)

theorem renderFrames_cons (r : CharCode × Position) (renders : List (CharCode × Position)) :
    renderFrames (r :: renders) = glyphFrames r.1 r.2 ++ renderFrames renders := List.flatMap_cons

theorem renderFrames_textRenders (text : List CharCode) (start : Position) :
    renderFrames (textRenders text start) = text.zipIdx.flatMap (fun (c, k) => glyphFrames c (start + BitVec.ofNat 8 k)) := by
  rw [textRenders_eq_zipIdx, renderFrames, List.flatMap_map]

theorem textRenders_length (text : List CharCode) (start : Position) : (textRenders text start).length = text.length := by
  simp [textRenders_eq_zipIdx]

/-- Every glyph render ends with a row, so the last one leaves DATA at 0. -/
theorem levelsAfter_renderFrames (ls : Lines) (r : CharCode × Position) (renders : List (CharCode × Position)) :
    levelsAfter ls ((renderFrames (r :: renders)).flatMap sendEvents) = ⟨true, false, false, ls.reset⟩ := by
  induction renders generalizing ls r with
  | nil =>
    rw [renderFrames_cons, renderFrames, List.flatMap_nil, List.append_nil]
    exact levelsAfter_glyphFrames ls r.1 r.2
  | cons r' renders ih =>
    rw [renderFrames_cons, List.flatMap_append, levelsAfter_append, levelsAfter_glyphFrames, ih]

/-- The end of a glyph render with another to follow is the start of that one, with the events performed (R117). -/
theorem closeFrame_startGlyphs_cons (s : State) (ch : CharCode) (pos : Position) (r : CharCode × Position)
    (renders : List (CharCode × Position)) (bs : List Byte) (b : Byte) :
    ((s.startGlyphs ch pos (r :: renders)).betweenFrames bs 7 b).closeFrame =
      (s.performAll (bs.flatMap sendEvents)).startGlyphs r.1 r.2 renders := closeFrame_of_render (by simp) rfl

theorem runs_startGlyphs_cons {s : State} (hrst : s.rstN = true) (ch : CharCode) (pos : Position) (r : CharCode × Position)
    (renders : List (CharCode × Position)) :
    runs 208 (s.startGlyphs ch pos (r :: renders)) =
      .next ((s.performAll ((glyphFrames ch pos).flatMap sendEvents)).startGlyphs r.1 r.2 renders) := by
  have hruns := runs_glyph (s := s.startGlyphs ch pos (r :: renders)) hrst rfl rfl rfl rfl rfl
  rwa [State.startGlyphs_curCh, closeFrame_startGlyphs_cons] at hruns

theorem Completed.of_performAll {s u : State} {es es' : List LineEvent} (h : Completed (s.performAll es) u es') :
    Completed s u (es ++ es') where
  trace := h.trace.trans (List.append_assoc _ _ _)
  lines := h.lines.trans (levelsAfter_append s.lines es es').symm
  phase := h.phase
  busy := h.busy
  initialized := h.initialized
  earlier := h.earlier
  rstN := h.rstN
  pending := h.pending
  answer := h.answer

theorem Completed.of_withOp {s u : State} {op : BitVec 3} {es : List LineEvent} (h : Completed { s with op := op } u es) :
    Completed s u es :=
  ⟨h.trace, h.lines, h.phase, h.busy, h.initialized, h.earlier, h.rstN, h.pending, h.answer⟩

theorem runs_renders {s : State} (hrst : s.rstN = true) (ch : CharCode) (pos : Position) (renders : List (CharCode × Position)) :
    ∃ u, runs (208 * (renders.length + 1)) (s.startGlyphs ch pos renders) = .next u ∧
      Completed s u ((renderFrames ((ch, pos) :: renders)).flatMap sendEvents) := by
  induction renders generalizing s ch pos with
  | nil =>
    rw [renderFrames_cons, renderFrames, List.flatMap_nil, List.append_nil]
    exact runs_startGlyphs hrst s.op ch pos
  | cons r renders ih =>
    obtain ⟨u, hruns, hdone⟩ := ih (s := s.performAll ((glyphFrames ch pos).flatMap sendEvents)) hrst r.1 r.2
    refine ⟨u, ?_, ?_⟩
    · rw [List.length_cons, Nat.mul_succ, Nat.add_comm, runs_add _ (runs_startGlyphs_cons hrst ch pos r renders)]
      exact hruns
    · rw [renderFrames_cons, List.flatMap_append]
      exact hdone.of_performAll

/-! ### RENDER_TEXT and CLEAR -/

/-- A command that renders glyphs, accepted: its renders in order, 208 steps each, then the block is ready (R109, R119). -/
theorem accept_startGlyphs_completes {s : State} (ha : s.accepts = true) (hrst : s.rstN = true) (op : BitVec 3) (ch : CharCode)
    (pos : Position) (renders : List (CharCode × Position)) :
    ∃ t u, accept s op (·.startGlyphs ch pos renders) = .next t ∧ t.busy = true ∧ t.op = op ∧
      runs (208 * (renders.length + 1)) t = .next u ∧
      Completed s u ((renderFrames ((ch, pos) :: renders)).flatMap sendEvents) ∧ u.accepts = true ∧
      u.lines = ⟨true, false, false, s.lines.reset⟩ := by
  obtain ⟨u, hruns, hdone⟩ := runs_renders (s := { s with op := op }) hrst ch pos renders
  have hdone : Completed s u _ := hdone.of_withOp
  exact ⟨_, u, accept_of_accepts ha _ _, rfl, rfl, hruns, hdone, hdone.accepts ha,
    hdone.lines.trans (levelsAfter_renderFrames s.lines _ renders)⟩

/-- An operation without events that changes nothing is complete at once (R110). -/
theorem completed_self {s : State} (ha : s.accepts = true) : Completed s s [] := by
  obtain ⟨hp, -, hbusy⟩ := (accepts_iff s).1 ha
  exact ⟨(List.append_nil _).symm, rfl, hp, hbusy, rfl, rfl, rfl, rfl, rfl⟩

/-- Settles O21: an empty text does nothing; any other is the renders of its characters. -/
theorem renderTextCompletes : Obligations.RenderTextCompletes := by
  intro text start s ha hrst
  cases text with
  | nil => exact ⟨s, s, rfl, fun _ => rfl, rfl, completed_self ha, ha, fun hne => absurd rfl hne⟩
  | cons c cs =>
    obtain ⟨t, u, haccept, hbusy, hop, hruns, hdone, hready, hlines⟩ :=
      accept_startGlyphs_completes ha hrst 0b010 c start (textRenders cs (start + 1))
    rw [textRenders_length] at hruns
    rw [← renderFrames_textRenders]
    exact ⟨t, u, haccept, fun hnil => absurd hnil (List.cons_ne_nil c cs), hruns, hdone, hready, fun _ => ⟨hbusy, hop, hlines⟩⟩

/-- The eight renders of CLEAR send the frames of R113. -/
theorem renderFrames_clear : renderFrames ((0x20, 0) :: clearRest) =
    (List.range 8).flatMap (fun p => [BitVec.ofNat 8 (0xA0 + p), 0, 0, 0, 0, 0, 0, 0]) := by
  simp only [clearRest_eq, renderFrames, List.flatMap_cons, List.flatMap_nil, glyphFrames_space]
  decide

/-- Settles O23: the render at position 0 and the seven after it. -/
theorem clearCompletes : Obligations.ClearCompletes := by
  intro s ha hrst
  rw [← renderFrames_clear]
  exact accept_startGlyphs_completes ha hrst 0b100 0x20 0 clearRest

end Sys2Proof.Machine

/-! ## What a listener hears of a command and after a broken frame (O49, O51)

The levels a listener keeps are the waveform (`Listener.hearAll_lines`). Out of sync it stays so, hearing broken frames only, until
RESET goes high (`Listener.hearAll_outOfSync`). -/

namespace Sys2Proof.Machine

open Sys2Proof

/-! ### What one event does to a listener -/

@[simp] theorem Listener.closeFrame_lines (d : Listener) : d.closeFrame.lines = d.lines := by
  unfold Listener.closeFrame
  split <;> rfl

/-- A frame without exactly 8 samples, or any frame out of sync, is broken (R46). -/
theorem Listener.closeFrame_of_broken {d : Listener} (h : ¬ (d.inSync = true ∧ d.samples.length = Config.frameBits)) :
    d.closeFrame = { d with inSync := false, heard := d.heard ++ [.broken] } := if_neg h

theorem Listener.hear_lines (d : Listener) (e : LineEvent) : (d.hear e).lines = applyEvent d.lines e := by
  unfold Listener.hear
  split
  · rfl
  · split <;> rfl
  · split
    · rfl
    · exact Listener.closeFrame_lines _
  · split <;> rfl
  · rfl

theorem Listener.hearAll_lines (d : Listener) (es : List LineEvent) : (d.hearAll es).lines = levelsAfter d.lines es := by
  induction es generalizing d with
  | nil => rfl
  | cons e es ih => rw [Listener.hearAll_cons, ih, Listener.hear_lines]; rfl

/-- RESET going high after RESET low is a pulse (R47). -/
theorem Listener.hear_reset_high {d : Listener} (hreset : d.lines.reset = false) :
    d.hear ⟨.reset, true⟩ = Listener.resync { d with lines := { d.lines with reset := true } } := by
  simp [Listener.hear, applyEvent, hreset]

/-! ### Out of sync -/

/-- `d'` is out of sync and has heard nothing but broken frames since `d`. -/
structure Listener.OnlyBroken (d d' : Listener) : Prop where
  outOfSync : d'.inSync = false
  heard : ∃ k, d'.heard = d.heard ++ List.replicate k .broken

theorem Listener.OnlyBroken.of_heard_eq {d d' : Listener} (hsync : d'.inSync = false) (h : d'.heard = d.heard) :
    d.OnlyBroken d' := ⟨hsync, 0, by rw [h, List.replicate_zero, List.append_nil]⟩

theorem Listener.OnlyBroken.trans {d d' d'' : Listener} (h : d.OnlyBroken d') (h' : d'.OnlyBroken d'') : d.OnlyBroken d'' := by
  obtain ⟨k, hk⟩ := h.heard
  obtain ⟨k', hk'⟩ := h'.heard
  exact ⟨h'.outOfSync, k + k', by rw [hk', hk, List.append_assoc, List.replicate_add]⟩

/-- Out of sync, only RESET going high is heard as anything but a broken frame (R46). -/
theorem Listener.hear_outOfSync {d : Listener} {e : LineEvent} (hsync : d.inSync = false) (he : e ≠ ⟨.reset, true⟩) :
    d.OnlyBroken (d.hear e) := by
  obtain ⟨line, level⟩ := e
  unfold Listener.hear
  split
  · exact .of_heard_eq hsync rfl
  · split <;> exact .of_heard_eq hsync rfl
  · split
    · exact .of_heard_eq hsync rfl
    · rw [Listener.closeFrame_of_broken (by simp [hsync])]
      exact ⟨rfl, 1, rfl⟩
  · next hline hlevel => exact absurd (by rw [← hline, ← hlevel]) he
  · exact .of_heard_eq hsync rfl

theorem Listener.hearAll_outOfSync {d : Listener} {es : List LineEvent} (hsync : d.inSync = false)
    (hes : ⟨.reset, true⟩ ∉ es) : d.OnlyBroken (d.hearAll es) := by
  induction es generalizing d with
  | nil => exact .of_heard_eq hsync rfl
  | cons e es ih =>
    obtain ⟨he, hrest⟩ := not_or.1 (mt List.mem_cons.2 hes)
    have hfirst : d.OnlyBroken (d.hear e) := Listener.hear_outOfSync hsync (Ne.symm he)
    exact hfirst.trans (ih hfirst.outOfSync hrest)

/-- A listener out of sync hears INIT as one RESET pulse, perhaps after a broken frame that INIT's LOAD event closes, and is in
sync again (R46, R103). -/
theorem Listener.hearAll_initEvents {d : Listener} (hsync : d.inSync = false) :
    (d.hearAll initEvents).inSync = true ∧ (d.hearAll initEvents).lines.clock = d.lines.clock ∧
    ∃ k, (d.hearAll initEvents).heard = d.heard ++ List.replicate k .broken ++ [.resetPulse] := by
  obtain ⟨k, hheard⟩ := (Listener.hearAll_outOfSync (es := [⟨.load, true⟩, ⟨.reset, false⟩]) hsync (by decide)).heard
  have hlow : (d.hearAll [⟨.load, true⟩, ⟨.reset, false⟩]).lines.reset = false := by rw [Listener.hearAll_lines]; rfl
  have hsplit : d.hearAll initEvents = (d.hearAll [⟨.load, true⟩, ⟨.reset, false⟩]).hear ⟨.reset, true⟩ := rfl
  refine ⟨?_, ?_, k, ?_⟩
  · rw [hsplit, Listener.hear_reset_high hlow]
    rfl
  · rw [Listener.hearAll_lines]
    rfl
  · rw [hsplit, Listener.hear_reset_high hlow, ← hheard]
    rfl

/-- Settles O51: how a broken frame is closed, how a listener out of sync stays so, and how INIT brings it back. -/
theorem brokenFrameNeedsReset : Obligations.BrokenFrameNeedsReset := by
  refine fun d => ⟨fun hload hsamples => ?_, fun es hsync hes => ?_, fun bs hsync hclock => ?_⟩
  · rw [Listener.hear_load_high hload, Listener.closeFrame_of_broken (by simp [hsamples])]
    exact ⟨rfl, rfl⟩
  · have hbroken := Listener.hearAll_outOfSync hsync hes
    exact ⟨hbroken.outOfSync, hbroken.heard⟩
  · obtain ⟨hback, hclock', k, hheard⟩ := Listener.hearAll_initEvents hsync
    exact ⟨k, by rw [Listener.hearAll_append, Listener.heard_sendEvents bs hback (hclock'.trans hclock), hheard]⟩

/-! ### The commands -/

/-- From LOAD 1 and RESET 1 INIT is heard as its RESET pulse alone (R47, R103). -/
theorem heardFrom_initEvents {ls : Lines} (hload : ls.load = true) : heardFrom ls initEvents = [.resetPulse] := by
  simp [heardFrom, initEvents, Listener.hear, Listener.start, Listener.resync, applyEvent, hload]

theorem heardFrom_frames {ls : Lines} (bs : List Byte) (hclock : ls.clock = false) :
    heardFrom ls (bs.flatMap sendEvents) = bs.map .byte := Listener.heard_sendEvents bs rfl hclock

/-- Settles O49: the events of the three commands, heard from the levels the invariant gives in idle. -/
theorem commandsAreHeard : Obligations.CommandsAreHeard := by
  intro s hinv ha hrst
  have hbound := hinv.atBoundary_of_idle (phase_idle_of_accepts ha)
  refine ⟨?_, fun ch pos => ?_, fun level => ?_⟩
  · obtain ⟨t, u, hexec, hruns, hdone, -⟩ := initCompletes s ha hrst
    exact ⟨t, u, _, hexec, hruns, hdone.trace, heardFrom_initEvents hbound.load⟩
  · obtain ⟨t, u, hexec, -, -, hruns, hdone, -⟩ := renderCharCompletes ch pos s ha hrst
    refine ⟨t, u, _, hexec, hruns, hdone.trace, ?_⟩
    rw [heardFrom_frames _ hbound.clock, glyphFrames_eq]
    rfl
  · obtain ⟨t, u, hexec, -, -, hruns, hdone, -⟩ := setBrightnessCompletes level s ha hrst
    refine ⟨t, u, _, hexec, hruns, hdone.trace, ?_⟩
    exact heardFrom_frames [_] hbound.clock

end Sys2Proof.Machine

/-! ## Dead registers (O47)

Everything the machine does to a state it does alike to two states that differ only in dead registers: one lemma for each
operation (`SameButDead.perform`, `SameButDead.startFrame`, `SameButDead.closeFrame` and so on), then one for an instruction, one
for the sequencer, and the step. Where the block goes idle the sequencer registers become dead, where a frame starts they are
written before they are live. -/

namespace Sys2Proof.Machine

open Sys2Proof

theorem SameButDead.refl (s : State) : SameButDead s s := by
  constructor <;> intros <;> rfl

/-! ### The operations -/

section
variable {s s' : State} (h : SameButDead s s')
include h

theorem SameButDead.withOp (op op' : BitVec 3) : SameButDead { s with op := op } { s' with op := op' } := { h with }

theorem SameButDead.withPending (pending : List PortInput) :
    SameButDead { s with pending := pending } { s' with pending := pending } := { h with pending := rfl }

theorem SameButDead.withAnswer (bytes : List Byte) : SameButDead { s with answer := bytes } { s' with answer := bytes } :=
  { h with answer := rfl }

theorem SameButDead.perform (e : LineEvent) : SameButDead (s.perform e) (s'.perform e) :=
  { h with
    lines := congrArg (applyEvent · e) h.lines
    trace := congrArg (· ++ [e]) h.trace }

/-- An event inside INIT or inside a frame (R117). -/
theorem SameButDead.advance (e : LineEvent) :
    SameButDead { s.perform e with ev := s.ev + 1 } { s'.perform e with ev := s'.ev + 1 } :=
  { h.perform e with ev := congrArg (· + 1) h.ev }

theorem SameButDead.hardwareReset : s.hardwareReset = s'.hardwareReset := by
  simp only [State.hardwareReset, State.performed, h.earlier, h.trace, h.rstN, h.pending]

theorem SameButDead.accepts : s.accepts = s'.accepts := by
  simp only [State.accepts, State.cmdReady, h.phase, h.initialized, h.busy]

theorem SameButDead.takes (p : PortInput) : s.takes p = s'.takes p := by
  cases p with
  | command => exact h.accepts
  | txStart => exact congrArg (· == .idle) h.phase
  | romPort | addrPort => rfl

theorem SameButDead.startInit : SameButDead s.startInit s'.startInit where
  lines := h.lines
  initialized := h.initialized
  busy := rfl
  phase := rfl
  ev := rfl
  trace := h.trace
  earlier := h.earlier
  rstN := h.rstN
  pending := h.pending
  answer := h.answer
  frame := nofun
  kind := nofun
  curByte := nofun
  todo := nofun
  curCh := nofun

theorem SameButDead.startFrame (b : Byte) : SameButDead (s.startFrame b) (s'.startFrame b) where
  lines := h.lines
  initialized := h.initialized
  busy := rfl
  phase := rfl
  ev := rfl
  trace := h.trace
  earlier := h.earlier
  rstN := h.rstN
  pending := h.pending
  answer := h.answer
  frame _ := rfl
  kind _ := rfl
  curByte _ := rfl
  todo _ := rfl
  curCh _ := nofun

theorem SameButDead.startGlyphs (ch : CharCode) (pos : Position) (todo : List (CharCode × Position)) :
    SameButDead (s.startGlyphs ch pos todo) (s'.startGlyphs ch pos todo) where
  lines := h.lines
  initialized := h.initialized
  busy := rfl
  phase := rfl
  ev := rfl
  trace := h.trace
  earlier := h.earlier
  rstN := h.rstN
  pending := h.pending
  answer := h.answer
  frame _ := rfl
  kind _ := rfl
  curByte _ := rfl
  todo _ := rfl
  curCh _ _ := rfl

/-- In idle no register of the sequencer is live (R22, R32). -/
theorem SameButDead.finish : SameButDead s.finish s'.finish :=
  { h with busy := rfl, phase := rfl, ev := rfl, frame := nofun, kind := nofun, curByte := nofun, todo := nofun, curCh := nofun }

theorem SameButDead.finishInit : SameButDead s.finishInit s'.finishInit := { h.finish with initialized := rfl }

/-- The end of a frame reads `kind`, `frame` and `todo`, and `cur_ch` in a glyph render only (R117). -/
theorem SameButDead.closeFrame (hrun : s.phase = .run) : SameButDead s.closeFrame s'.closeFrame := by
  have hkind := h.kind hrun
  have hframe := h.frame hrun
  have htodo := h.todo hrun
  by_cases hrow : s.kind = .glyph ∧ s.frame < 7
  · obtain ⟨hk, hlt⟩ := hrow
    have hch := h.curCh hrun hk
    rw [closeFrame_of_row hk hlt, closeFrame_of_row (hkind.symm.trans hk) (hframe ▸ hlt)]
    exact { h with
      ev := rfl
      frame := fun _ => congrArg (· + 1) hframe
      curByte := fun _ => by simp only [hch, hframe] }
  · have hrow' : ¬ (s'.kind = .glyph ∧ s'.frame < 7) := by rwa [← hkind, ← hframe]
    cases hleft : s.todo with
    | nil =>
      rw [closeFrame_of_nothing_left hrow hleft, closeFrame_of_nothing_left hrow' (htodo.symm.trans hleft)]
      exact h.finish
    | cons r rest =>
      rw [closeFrame_of_render hrow hleft, closeFrame_of_render hrow' (htodo.symm.trans hleft)]
      exact { h with
        ev := rfl
        frame := fun _ => rfl
        curByte := fun _ => rfl
        todo := fun _ => rfl
        curCh := fun _ _ => rfl }

end

/-! ### The instructions -/

/-- Two outcomes that go on, to states that differ only in dead registers. -/
def GoAlike (o o' : Host.Outcome State Fault Refusal) : Prop := ∃ t t', o = .next t ∧ o' = .next t' ∧ SameButDead t t'

theorem GoAlike.next {o o' : Host.Outcome State Fault Refusal} {t : State} (h : GoAlike o o') (ho : o = .next t) :
    ∃ t', o' = .next t' ∧ SameButDead t t' := by
  obtain ⟨u, t', hu, ht', hsame⟩ := h
  cases ho.symm.trans hu
  exact ⟨t', ht', hsame⟩

theorem SameButDead.accept {s s' : State} (h : SameButDead s s') (op : BitVec 3) {f : State → State}
    (hf : SameButDead (f { s with op := op }) (f { s' with op := op })) : GoAlike (accept s op f) (accept s' op f) := by
  cases ha : s.accepts with
  | true => exact ⟨_, _, accept_of_accepts ha op f, accept_of_accepts (h.accepts.symm.trans ha) op f, hf⟩
  | false => exact ⟨_, _, accept_of_not_accepts ha op f, accept_of_not_accepts (h.accepts.symm.trans ha) op f, h⟩

theorem SameButDead.startTx {s s' : State} (h : SameButDead s s') (b : Byte) : GoAlike (startTx s b) (startTx s' b) := by
  by_cases hp : s.phase = .idle
  · exact ⟨_, _, startTx_of_idle hp b, startTx_of_idle (h.phase.symm.trans hp) b, h.startFrame b⟩
  · exact ⟨_, _, startTx_of_ne_idle hp b, startTx_of_ne_idle (h.phase ▸ hp) b, h⟩

theorem SameButDead.exec {s s' : State} (h : SameButDead s s') (i : Instr) : GoAlike (exec i s) (exec i s') := by
  cases i with
  | addrFrame | rowFrame | ctrlFrame | send => exact h.startTx _
  | init => exact h.accept _ (h.withOp _ _).startInit
  | renderChar ch pos =>
    rw [exec_renderChar, exec_renderChar]
    exact h.accept _ ((h.withOp _ _).startGlyphs ch pos [])
  | renderText text start =>
    cases text with
    | nil => exact ⟨s, s', rfl, rfl, h⟩
    | cons c cs =>
      rw [exec_renderText_cons, exec_renderText_cons]
      exact h.accept _ ((h.withOp _ _).startGlyphs c start _)
  | setBrightness level =>
    rw [exec_setBrightness, exec_setBrightness]
    exact h.accept _ ((h.withOp _ _).startFrame _)
  | clear =>
    rw [exec_clear, exec_clear]
    exact h.accept _ ((h.withOp _ _).startGlyphs _ 0 clearRest)
  | reserved101 | reserved110 | reserved111 => exact ⟨s, s', rfl, rfl, h⟩
  | lookup | addrEncode => exact ⟨_, _, rfl, rfl, h.withAnswer _⟩

/-! ### The step -/

/-- The next event is selected by live registers alone, and so is what follows it (R117). -/
theorem SameButDead.sequence {s s' t : State} (h : SameButDead s s') (hrst : s'.rstN = true) (hp : s.phase ≠ .idle)
    (hseq : s.sequence = .next t) : ∃ t', step s' = .next t' ∧ SameButDead t t' := by
  obtain ⟨hidle, -⟩ | ⟨e, hi, he, hev, rfl⟩ | ⟨e, hi, he, hev, rfl⟩ | ⟨e, hr, he, hev, rfl⟩ | ⟨e, hr, he, hev, rfl⟩ :=
    sequence_cases hseq
  · exact absurd hidle hp
  · obtain rfl : ⟨.reset, true⟩ = e := by simpa [hev, initEvents] using he
    exact ⟨_, step_init_end hrst (h.phase ▸ hi) (h.ev ▸ hev), (h.perform _).finishInit⟩
  · exact ⟨_, step_init_event hrst (h.phase ▸ hi) (h.ev ▸ he) (h.ev ▸ hev), h.advance e⟩
  · have he' : frameEvent s'.curByte s'.ev = some e := by rwa [← h.curByte hr, ← h.ev]
    exact ⟨_, step_frame_event hrst (h.phase ▸ hr) he' (h.ev ▸ hev), h.advance e⟩
  · obtain rfl : ⟨.load, true⟩ = e := by simpa [hev, frameEvent] using he
    exact ⟨_, step_frame_end hrst (h.phase ▸ hr) (h.ev ▸ hev), (h.perform _).closeFrame hr⟩

/-- Settles O47, by the cases of one step: what is taken from the ports and what is performed is read from live registers. -/
theorem deadRegistersUnread : Obligations.DeadRegistersUnread := by
  intro s s' t h hstep
  obtain ⟨hrst, rfl⟩ | ⟨hrst, hp, hseq⟩ | ⟨hrst, hp, rfl, hwait⟩ | ⟨p, rest, hrst, hp, hpend, htakes, hexec⟩ := step_cases hstep
  all_goals rw [h.rstN] at hrst
  · exact ⟨_, step_of_reset hrst, h.hardwareReset ▸ .refl _⟩
  · exact h.sequence hrst hp hseq
  · rw [h.phase] at hp
    rw [h.pending] at hwait
    obtain hpend | ⟨p, rest, hpend, htakes⟩ := hwait
    · exact ⟨s', step_of_nothing_presented hrst hp hpend, h⟩
    · exact ⟨s', step_of_not_takes hrst hp hpend ((h.takes p).symm.trans htakes), h⟩
  · rw [h.phase] at hp
    rw [h.pending] at hpend
    rw [step_of_takes hrst hp hpend ((h.takes p).symm.trans htakes)]
    exact ((h.withPending rest).exec (decode p)).next hexec

end Sys2Proof.Machine
